-- ==== Sys2Proof/Word.lean ====
section
/-! DEFINITION. The word types of the engine (00_scope.md R15, R16). -/

namespace Sys2Proof

/-- A byte of SRC or of OUT, or a raw byte of a token. -/
abbrev Byte := BitVec 8

/-- A marker word, the contents of WINDOW (10_state.md R21). -/
abbrev Marker := BitVec 16

/-- A 32-bit register, an offset (i32) or a length (u32) (30_encoding.md R98). -/
abbrev Word := BitVec 32

end Sys2Proof
end

