-- ==== Sys2Proof/Syntax.lean ====
section
/-! DEFINITION. The instructions: the five tokens of the stream and the one host command (00_scope.md R9,
30_encoding.md R90, spec/opcode_table.json). -/

namespace Sys2Proof

/-- One constructor per row of spec/opcode_table.json; the operands are the token's fields of 30_encoding.md R92 to R95. -/
inductive Instr where
  /-- `LIT`: literal byte `v` (R92, R141). -/
  | lit (v : Byte)
  /-- `SCOPY`: short copy; `a` and `b` are the third and fourth control bit, `v` the raw byte (R93, R142). -/
  | scopy (a b : Bool) (v : Byte)
  /-- `LCOPY`: long copy with `hi[3:0]` not 0 (R94, R95, R143). -/
  | lcopy (lo hi : Byte)
  /-- `XCOPY`: escape slot, `hi[3:0] = 0` and `n` not 0 (R95, R144). -/
  | xcopy (lo hi n : Byte)
  /-- `EOS`: escape slot with third raw byte 0; `lo` and `hi[7:4]` are ignored (R95, R101, R145). -/
  | eos (lo hi : Byte)
  /-- `START`: the value 1 written to `CMD` (10_state.md R31, 43_block_chainer.md R171). -/
  | start
deriving DecidableEq, Repr

end Sys2Proof
end

