-- ==== Sys2Proof/WellFormed.lean ====
section
/-! DEFINITION. Which instructions the encoding can spell (30_encoding.md R94, R95, R105). -/

namespace Sys2Proof

/-- `hi[3:0]`, the 4-bit length field `L` of the long form, is 0: the escape slot (30_encoding.md R95). -/
def isEscape (hi : Byte) : Bool := hi &&& 0x0F#8 == 0#8

/-- The conditions of the decision table (30_encoding.md R105): `LCOPY` has `hi[3:0] != 0`, `XCOPY` and `EOS` have
`hi[3:0] = 0`, `XCOPY` has `n != 0`. -/
def Instr.wellFormed : Instr → Bool
  | .lit _ => true
  | .scopy _ _ _ => true
  | .lcopy _ hi => !isEscape hi
  | .xcopy _ hi n => isEscape hi && n != 0#8
  | .eos _ hi => isEscape hi
  | .start => true

end Sys2Proof
end

