-- ==== Sys2Proof/Decode.lean ====
section
/-! DEFINITION. Decoding and encoding of tokens and of the command (30_encoding.md). `readToken` is the one decision
procedure (R99, R105); it is run over a source of control bits and raw bytes: over two lists, over the byte stream of a
block, and by the machine over WINDOW and SRC (Machine/Fetch.lean). -/

namespace Sys2Proof

/-- The answer of a reading operation on a state `σ`: a result, or a stop that keeps the state reached
(00_scope.md R16: everything done before a `raise` stays done). -/
inductive Reading (ε σ α : Type) where
  /-- A result and the state after it. -/
  | ok (a : α) (s : σ)
  /-- The operation stopped with reason `e`; `s` holds what was done before. -/
  | stop (e : ε) (s : σ)
deriving DecidableEq, Repr

/-- Go on with the result, or stay stopped: pseudocode lines execute in the order written (00_scope.md R16). -/
def Reading.andThen {ε σ α β : Type} (r : Reading ε σ α) (f : α → σ → Reading ε σ β) : Reading ε σ β :=
  match r with
  | .ok a s => f a s
  | .stop e s => .stop e s

/-- The rest of format S after `0 0`: control bits `a`, `b`, then `v` (30_encoding.md R93). -/
def readShort {ε σ : Type} (bit : σ → Reading ε σ Bool) (byte : σ → Reading ε σ Byte) (s : σ) : Reading ε σ Instr :=
  (bit s).andThen fun a s =>
  (bit s).andThen fun b s =>
  (byte s).andThen fun v s =>
  .ok (.scopy a b v) s

/-- The rest of the long form after `0 1`: `lo`, `hi`, and in the escape slot `n` (30_encoding.md R94, R95). -/
def readLong {ε σ : Type} (byte : σ → Reading ε σ Byte) (s : σ) : Reading ε σ Instr :=
  (byte s).andThen fun lo s =>
  (byte s).andThen fun hi s =>
  if isEscape hi then
    (byte s).andThen fun n s =>
    if n = 0#8 then .ok (.eos lo hi) s else .ok (.xcopy lo hi n) s
  else .ok (.lcopy lo hi) s

/-- The decision table of 30_encoding.md R105, in the reading order of R99 and 41_token_decode.md R140: `bit` takes one
control bit, `byte` one raw byte. -/
def readToken {ε σ : Type} (bit : σ → Reading ε σ Bool) (byte : σ → Reading ε σ Byte) (s : σ) : Reading ε σ Instr :=
  (bit s).andThen fun first s =>
  if first then
    (byte s).andThen fun v s => .ok (.lit v) s
  else
    (bit s).andThen fun second s =>
    if second then readLong byte s else readShort bit byte s

/-- Why bytes or words are no instruction. No token spelling is illegal (30_encoding.md R100); what can be missing is
material. -/
inductive DecodeError where
  /-- The control bits ended inside a token. -/
  | controlBitMissing
  /-- The raw bytes ended inside a token. -/
  | rawByteMissing
  /-- Fewer than two bytes remained for a marker word (20_memory.md R64). -/
  | markerMissing
  /-- Control bits or raw bytes were left after the one token asked for. -/
  | materialLeft
  /-- A value of `CMD` other than 1 (10_state.md R31). -/
  | noSuchCommand
deriving DecidableEq, Repr

/-! ## A token's spelling: control bits and raw bytes (30_encoding.md R91) -/

/-- The control bits and the raw bytes not yet taken, both in read order. -/
structure Spelling where
  control : List Bool
  raw : List Byte
deriving DecidableEq, Repr

/-- Take the next control bit of a spelling. -/
def Spelling.nextBit (s : Spelling) : Reading DecodeError Spelling Bool :=
  match s.control with
  | [] => .stop .controlBitMissing s
  | b :: rest => .ok b { s with control := rest }

/-- Take the next raw byte of a spelling. -/
def Spelling.nextByte (s : Spelling) : Reading DecodeError Spelling Byte :=
  match s.raw with
  | [] => .stop .rawByteMissing s
  | v :: rest => .ok v { s with raw := rest }

/-- Decode the token at the head of a spelling; what is left over comes back with it. -/
def decodeSpelling (s : Spelling) : Reading DecodeError Spelling Instr :=
  readToken Spelling.nextBit Spelling.nextByte s

/-- The words of one instruction: a token's spelling, or the value written to `CMD`. -/
inductive Words where
  | token (spelling : Spelling)
  | command (code : Word)
deriving DecidableEq, Repr

/-- The command a write of `code` to `CMD` gives: 1 is START, every other value is none (10_state.md R31). -/
def decodeCommand (code : Word) : Option Instr :=
  if code = 1#32 then some .start else none

/-- Decode the words of exactly one instruction. -/
def decode : Words → Except DecodeError Instr
  | .command code =>
    match decodeCommand code with
    | some i => .ok i
    | none => .error .noSuchCommand
  | .token spelling =>
    match decodeSpelling spelling with
    | .stop e _ => .error e
    | .ok i left => if left = { control := [], raw := [] } then .ok i else .error .materialLeft

/-- The control bits and raw bytes of 30_encoding.md R92 to R95, and the value of `CMD` of R105's sixth row. -/
def encode : Instr → Words
  | .lit v => .token { control := [true], raw := [v] }
  | .scopy a b v => .token { control := [false, false, a, b], raw := [v] }
  | .lcopy lo hi => .token { control := [false, true], raw := [lo, hi] }
  | .xcopy lo hi n => .token { control := [false, true], raw := [lo, hi, n] }
  | .eos lo hi => .token { control := [false, true], raw := [lo, hi, 0#8] }
  | .start => .command 1#32

/-! ## The byte stream of a block (30_encoding.md R97, 40_bitstream_reader.md) -/

/-- The marker word of two bytes, little-endian: `byte0 | byte1<<8` (20_memory.md R61). -/
def markerWord (byte0 byte1 : Byte) : Marker :=
  byte0.setWidth 16 ||| (byte1.setWidth 16 <<< 8)

/-- A bit cursor over the bytes of a block not yet consumed. -/
structure BitStream where
  window : Marker
  count : BitVec 5
  bytes : List Byte
deriving DecidableEq, Repr

/-- Load the next marker word, or stop when fewer than two bytes remain (40_bitstream_reader.md R121). -/
def BitStream.reload (s : BitStream) : Reading DecodeError BitStream Unit :=
  match s.bytes with
  | byte0 :: byte1 :: rest => .ok () { window := markerWord byte0 byte1, count := 16#5, bytes := rest }
  | _ => .stop .markerMissing s

/-- Take one control bit, with the eager reload (40_bitstream_reader.md R123). -/
def BitStream.nextBit (s : BitStream) : Reading DecodeError BitStream Bool :=
  let bit := s.window.getLsbD 0
  let taken : BitStream := { s with window := s.window >>> 1, count := s.count - 1#5 }
  if taken.count = 0#5 then taken.reload.andThen fun _ s => .ok bit s else .ok bit taken

/-- Take one raw byte (40_bitstream_reader.md R124). -/
def BitStream.nextByte (s : BitStream) : Reading DecodeError BitStream Byte :=
  match s.bytes with
  | [] => .stop .rawByteMissing s
  | v :: rest => .ok v { s with bytes := rest }

/-- Decode the next token of a block's byte stream. -/
def decodeNext (s : BitStream) : Reading DecodeError BitStream Instr :=
  readToken BitStream.nextBit BitStream.nextByte s

/-- Open a block's byte stream: its first two bytes are marker word 0 (30_encoding.md R97, 40_bitstream_reader.md R122). -/
def openBlockStream (bytes : List Byte) : Reading DecodeError BitStream Unit :=
  BitStream.reload { window := 0#16, count := 0#5, bytes := bytes }

/-- The tokens of a block up to and with its first `EOS`, at most `fuel` of them (30_encoding.md R104). -/
def decodeTokens : Nat → BitStream → Reading DecodeError BitStream (List Instr)
  | 0, s => .ok [] s
  | fuel + 1, s =>
    (decodeNext s).andThen fun i s =>
    match i with
    | .eos _ _ => .ok [i] s
    | _ => (decodeTokens fuel s).andThen fun rest s => .ok (i :: rest) s

/-- The tokens of a block. Every token takes a raw byte, so the number of bytes bounds the number of tokens
(41_token_decode.md R148). -/
def decodeBlock (bytes : List Byte) : Reading DecodeError BitStream (List Instr) :=
  (openBlockStream bytes).andThen fun _ s => decodeTokens bytes.length s

/-! ## The packing procedure (30_encoding.md R107) -/

/-- The packer's variables: `B`, `m`, `k` of 30_encoding.md R107. -/
structure Packer where
  bytes : List Byte
  marker : Nat
  used : Nat
deriving DecidableEq, Repr

/-- `B <- [0x00, 0x00]; m <- 0; k <- 0`. -/
def Packer.initial : Packer := { bytes := [0#8, 0#8], marker := 0, used := 0 }

/-- `PutByte(x)`. -/
def Packer.putByte (p : Packer) (x : Byte) : Packer := { p with bytes := p.bytes ++ [x] }

/-- The byte with the one bit `x` at place `k`: `x << k`. -/
def bitAt (x : Bool) (k : Nat) : Byte := (BitVec.ofBool x).setWidth 8 <<< k

/-- `PutBit(x)`: the bit goes into the current marker word, and the next marker word is reserved as soon as the 16th bit
is placed. -/
def Packer.putBit (p : Packer) (x : Bool) : Packer :=
  let bytes :=
    if p.used < 8 then p.bytes.modify p.marker (· ||| bitAt x p.used)
    else p.bytes.modify (p.marker + 1) (· ||| bitAt x (p.used - 8))
  if p.used + 1 = 16 then { bytes := bytes ++ [0#8, 0#8], marker := bytes.length, used := 0 }
  else { bytes := bytes, marker := p.marker, used := p.used + 1 }

/-- All control bits, then all raw bytes of one token (30_encoding.md R91, R107). START is no stream material. -/
def Packer.putToken (p : Packer) (i : Instr) : Packer :=
  match encode i with
  | .token spelling => spelling.raw.foldl Packer.putByte (spelling.control.foldl Packer.putBit p)
  | .command _ => p

/-- The bytes of a `BLOCK` (30_encoding.md R107). -/
def packBlock (tokens : List Instr) : List Byte := (tokens.foldl Packer.putToken Packer.initial).bytes

/-! ## The token image of the opcode table (30_encoding.md R96) -/

/-- How many control bits the image `TI` begins with: format L 1, format S 4, formats X2 and X3 2. -/
def imageControlBits (ti : Nat) : Nat :=
  if ti % 2 = 1 then 1 else if ti / 2 % 2 = 1 then 2 else 4

/-- The raw byte number `j` of an image; bits the image does not have are 0. -/
def imageRawByte (ti j : Nat) : Byte := BitVec.ofNat 8 (ti / 2 ^ (imageControlBits ti + 8 * j))

/-- A block whose first token has the image `ti`: marker word 0 with the control bits from bit 0 upward, then three raw
bytes, the most a token has. -/
def imageBlock (ti : Nat) : List Byte :=
  [BitVec.ofNat 8 (ti % 2 ^ imageControlBits ti), 0#8, imageRawByte ti 0, imageRawByte ti 1, imageRawByte ti 2]

/-- Whether an instruction of `nbits` bits with value `w` is a value written to `CMD` rather than a token image: the
table's START row has 32 bits and an odd value, and the one odd row among the tokens, LIT, has 9 (log 17). -/
def isCommandImage (nbits w : Nat) : Bool := decide (26 < nbits) && w % 2 == 1

/-- The instruction the decoder reads from the bits `w` of an opcode-table row (log 17). -/
def decodeTableWord (nbits w : Nat) : Option Instr :=
  if isCommandImage nbits w then decodeCommand (BitVec.ofNat 32 w)
  else
    match (openBlockStream (imageBlock w)).andThen fun _ s => decodeNext s with
    | .ok i _ => some i
    | .stop _ _ => none

end Sys2Proof
end

