-- ==== Sys2Proof/Config.lean ====
section
/-! DEFINITION. What an implementation fixes (00_scope.md R5, R6) and the free values, which no proof can see. -/

namespace Sys2Proof

/-- The two parameters the spec leaves to the implementation (00_scope.md R6, D6, D7). The model takes them as an
argument: State carries them, and nothing changes them (log 5). -/
structure Params where
  /-- `OUT_CAP`: the number of bytes of OUT. -/
  outCap : Nat
  /-- `BLOCK_CAP`: the most output bytes one decode call may produce. -/
  blockCap : Nat
deriving DecidableEq, Repr

/-- `1 <= BLOCK_CAP <= OUT_CAP <= 2^32 - 1` (00_scope.md R6, U9). -/
abbrev Params.legal (p : Params) : Prop :=
  1 ≤ p.blockCap ∧ p.blockCap ≤ p.outCap ∧ p.outCap ≤ 2 ^ 32 - 1

namespace Config

/-- `ZLIST_SLOTS` (00_scope.md R5). -/
abbrev zlistSlots : Nat := 33

/-- DESIGN CHOICE (log 5): the parameters `State.reset` carries. Claims about a step hold for every `Params`. -/
def resetParams : Params := { outCap := 65536, blockCap := 65536 }

/-- FREE VALUE (log 3): what an engine read of a byte of SRC yields that the host has not written since the last reset
(70_reset_and_hazards.md R242, U5), for the number of resets so far and the byte's index. -/
opaque freeSrcByte : Nat → Nat → Byte

/-- FREE VALUE (log 4): what a read of a byte of OUT yields that Emit has not written since the last reset
(10_state.md R55, U5), for the number of resets so far and the byte's index. -/
opaque freeOutByte : Nat → Nat → Byte

/-- FREE VALUE (logs 6, 7): the unspecified value a host read returns (70_reset_and_hazards.md R246, U6), for the number
of such reads so far. -/
opaque freeRead : Nat → Word

end Config

end Sys2Proof
end

