-- ==== Sys2Proof/Machine/State.lean ====
section
/-! DEFINITION. The architectural state of the engine (10_state.md), the host's moves, the reasons a step can stop, and
the state after reset (R55). Plain data throughout. -/

namespace Sys2Proof.Machine

/-- `STATE` (10_state.md R46): `IDLE`, `BUSY`, `DONE`, `FAULT`. -/
inductive EngineState where
  /-- After reset, no chain has run. -/
  | idle
  /-- A chain is running; only the engine steps. -/
  | busy
  /-- The last chain ended with its list exhausted and no fault. -/
  | done
  /-- A fault was raised; sticky until reset (60_exceptions.md R218). -/
  | fault
deriving DecidableEq, Repr

/-- `PHASE` (10_state.md R29): which step the engine takes next while `STATE = BUSY`. -/
inductive Phase where
  | blockBegin
  | token
deriving DecidableEq, Repr

/-- `FAULT_CAUSE` (10_state.md R47, 60_exceptions.md R210); the codes 5 to 15 never occur. -/
inductive FaultCause where
  | none
  | invalidBackReference
  | outputOverflow
  | sourceTruncated
  | zblockSizeMismatch
deriving DecidableEq, Repr

/-- One of the two byte memories: (index, byte) pairs with strictly rising indices. An index that is not listed holds no
value (10_state.md R55, 70_reset_and_hazards.md R242). -/
abbrev Memory := List Host.Cell

/-- A move of the host (00_scope.md R7, R14; 70_reset_and_hazards.md R240, R246). That there is no move that reads a byte of
SRC back, which the table of R246 does not list and R242 and U5 leave open, is the model's choice (DESIGN CHOICE, log 24). -/
inductive HostMove where
  /-- Write the 32-bit value `v` to register number `n` (10_state.md R30); register 0 is `CMD`. -/
  | writeReg (n : BitVec 6) (v : Word)
  /-- Read register number `n` (10_state.md R30). -/
  | readReg (n : BitVec 6)
  /-- Write a byte of the source space (10_state.md R48). -/
  | writeSrc (index : Word) (v : Byte)
  /-- Read a byte of the output buffer (10_state.md R49, D30). -/
  | readOut (index : Word)
  /-- Assert and release the reset input (70_reset_and_hazards.md R240). -/
  | reset
  /-- Leave one step to the engine (log 8). -/
  | wait
deriving DecidableEq, Repr

/-- The state of the machine. The fields down to `out` are the spec's (10_state.md R20); `params` is its configuration
(00_scope.md R6, R8); the others are the model's own (logs 6 to 9). -/
structure State where
  /-- `WINDOW` (R21). -/
  window : Marker
  /-- `COUNT` (R22). -/
  count : BitVec 5
  /-- `SP`, the source cursor (R23). -/
  sp : Word
  /-- `WC`, the write cursor (R24). -/
  wc : Word
  /-- `BLK_SRC_BASE` (R25). -/
  blkSrcBase : Word
  /-- `BLK_SRC_LIMIT` (R26). -/
  blkSrcLimit : Word
  /-- `BLK_OUT_BASE` (R27). -/
  blkOutBase : Word
  /-- `ZIDX` (R28). -/
  zidx : BitVec 6
  /-- `PHASE` (R29). -/
  phase : Phase
  /-- `STATE` (R46). -/
  engine : EngineState
  /-- `FAULT_CAUSE` (R47). -/
  faultCause : FaultCause
  /-- `FAULT_INFO` (R41). -/
  faultInfo : Word
  /-- `SRC_LEN` (R33). -/
  srcLen : Word
  /-- `ZLIST[0..32]` (R43). -/
  zlist : Vector Word 33
  /-- The source space `SRC` (R48). -/
  src : Memory
  /-- The output buffer `OUT` (R49). -/
  out : Memory
  /-- `OUT_CAP` and `BLOCK_CAP` (00_scope.md R6; log 5). -/
  params : Params
  /-- Whether a Reload has written `WINDOW` and `COUNT` since the last reset (R55; log 6). -/
  cursorLoaded : Bool
  /-- The number of resets so far (log 7). -/
  resets : Nat
  /-- The number of unspecified values the host has read so far (log 7). -/
  freeReads : Nat
  /-- The host's moves still to come (log 8). -/
  hostMoves : List HostMove
  /-- The value the host's last read returned (log 9). -/
  hostData : Word
deriving DecidableEq, Repr

/-- Why the machine stops. The engine's own faults are not here: they are a next state with `STATE = FAULT`
(60_exceptions.md R217). -/
inductive Fault where
  /-- Raised by a host read of OUT at an index at or above `OUT_CAP`, which does not exist (10_state.md R49). Safe: the
  model stops where a bus might answer something (log 14). -/
  | outIndexAbsent
deriving DecidableEq, Repr

/-- Why the machine gives a move no meaning. -/
inductive Refusal where
  /-- Raised by an arm of `exec` for an instruction that has no meaning yet. Safe. No arm raises it. -/
  | notModelled (mnemonic : String)
  /-- Raised by a host write of SRC while `STATE = BUSY`: the host is forbidden to make it and the model does not offer
  it (70_reset_and_hazards.md R247, U7). Safe for claims about next states; no claim covers a host that makes it
  (log 12). -/
  | srcWriteWhileBusy
deriving DecidableEq, Repr

/-- The state after reset (10_state.md R55) for given parameters. `WINDOW` and `COUNT` are unspecified there: DESIGN
CHOICE 0 (logs 1, 2), which a host read never shows because `cursorLoaded` is false. `SRC` and `OUT` are unspecified:
nothing is listed. -/
def State.resetFor (params : Params) : State where
  window := 0
  count := 0
  sp := 0
  wc := 0
  blkSrcBase := 0
  blkSrcLimit := 0
  blkOutBase := 0
  zidx := 0
  phase := .blockBegin
  engine := .idle
  faultCause := .none
  faultInfo := 0
  srcLen := 0
  zlist := Vector.replicate 33 0
  src := []
  out := []
  params := params
  cursorLoaded := false
  resets := 0
  freeReads := 0
  hostMoves := []
  hostData := 0

/-- The machine right after reset (10_state.md R55), with the parameters of log 5. -/
def State.reset : State := State.resetFor Config.resetParams

end Sys2Proof.Machine
end

