-- ==== Sys2Proof/Machine/Ops.lean ====
section
/-! DEFINITION. The named operations over memories and registers: the two memories, fault entry and reset, and the
micro-operations of 40_bitstream_reader.md, 42_copy_engine.md and 43_block_chainer.md. -/

namespace Sys2Proof.Machine

/-! ## The byte memories (20_memory.md) -/

/-- The canonical form of a memory below `limit`: strictly rising indices, each of them below `limit`. No entry can equal
what an unlisted index reads as, because an unlisted index holds no value. -/
def Memory.wf (limit : Nat) : Memory → Bool
  | [] => true
  | [c] => decide (c.1 < limit)
  | c :: d :: rest => decide (c.1 < d.1) && Memory.wf limit (d :: rest)

/-- The byte an index holds, if it holds one. -/
def Memory.read? : Memory → Nat → Option Byte
  | [], _ => none
  | c :: rest, i => if c.1 = i then some c.2 else Memory.read? rest i

/-- Write one byte (20_memory.md R66), in its place. -/
def Memory.write : Memory → Nat → Byte → Memory
  | [], i, v => [(i, v)]
  | c :: rest, i, v =>
    if i < c.1 then (i, v) :: c :: rest
    else if i = c.1 then (i, v) :: rest
    else c :: Memory.write rest i v

/-- `MemRead(SRC, i, 1)`; a byte the host has not written is a free value (70_reset_and_hazards.md R242, U5; log 3). -/
def State.srcAt (s : State) (i : Nat) : Byte :=
  (Memory.read? s.src i).getD (Config.freeSrcByte s.resets i)

/-- `MemRead(OUT, i, 1)`; a byte nothing has written is a free value (10_state.md R55, U5; log 4). -/
def State.outAt (s : State) (i : Nat) : Byte :=
  (Memory.read? s.out i).getD (Config.freeOutByte s.resets i)

/-- `ZLIST[i]` (10_state.md R43). Slots 33 and above do not exist; 0 there (log 16), which no run reads (R173). -/
def State.zslot (s : State) (i : Nat) : Word := s.zlist.toList.getD i 0#32

/-! ## Taking a fault, and reset, the only way out (60_exceptions.md R217, R218) -/

/-- What `raise F(info)` names (00_scope.md R16). -/
structure Raise where
  cause : FaultCause
  info : Word
deriving DecidableEq, Repr

/-- Fault entry: `FAULT_CAUSE`, `FAULT_INFO` and `STATE` are written and nothing else (60_exceptions.md R217). There is no
handler and nothing is saved. -/
def State.enterFault (s : State) (r : Raise) : State :=
  { s with faultCause := r.cause, faultInfo := r.info, engine := .fault }

/-- The reset input (70_reset_and_hazards.md R240): the values of 10_state.md R55, in every state. It is the only return
from `FAULT` (60_exceptions.md R218). The parameters, the host's script and data stay; the count of resets goes on, so
that unwritten bytes get new free values (R241; log 10). -/
def State.resetInput (s : State) : State :=
  { State.resetFor s.params with
    resets := s.resets + 1, freeReads := s.freeReads, hostMoves := s.hostMoves, hostData := s.hostData }

/-- The answer of a micro-operation: a result with the state after it, or a raise with the state at the raise. -/
abbrev Micro (α : Type) := Reading Raise State α

/-- How a step of the engine ends: the state after it, or fault entry at the raise (00_scope.md R16). -/
def settle (m : Micro Unit) : Host.Outcome State Fault Refusal :=
  match m with
  | .ok _ s => .next s
  | .stop r s => .next (s.enterFault r)

/-! ## BitstreamReader (40_bitstream_reader.md) -/

/-- The assignments of Reload (R121): the window from two source bytes, `COUNT <- 16`, `SP <- SP + 2`. -/
def State.loadMarker (s : State) : State :=
  { s with
    window := markerWord (s.srcAt s.sp.toNat) (s.srcAt (s.sp.toNat + 1))
    count := 16#5
    sp := s.sp + 2#32
    cursorLoaded := true }

/-- Reload (R121): all or nothing (20_memory.md R64). -/
def reload (s : State) : Micro Unit :=
  if s.blkSrcLimit.toNat < s.sp.toNat + 2 then .stop { cause := .sourceTruncated, info := 0#32 } s
  else .ok () s.loadMarker

/-- Init (R122) is Reload and nothing else. -/
def initCursor (s : State) : Micro Unit := reload s

/-- The shift and the decrement of NextBit (R123). -/
def State.takeBit (s : State) : State :=
  { s with window := s.window >>> 1, count := s.count - 1#5 }

/-- NextBit (R123), with the eager reload. -/
def nextBit (s : State) : Micro Bool :=
  let bit := s.window.getLsbD 0
  if s.takeBit.count = 0#5 then (reload s.takeBit).andThen fun _ t => .ok bit t
  else .ok bit s.takeBit

/-- `SP <- SP + 1` (R124). -/
def State.advanceSource (s : State) : State := { s with sp := s.sp + 1#32 }

/-- SrcByte (R124). -/
def srcByte (s : State) : Micro Byte :=
  if s.blkSrcLimit.toNat ≤ s.sp.toNat then .stop { cause := .sourceTruncated, info := 0#32 } s
  else .ok (s.srcAt s.sp.toNat) s.advanceSource

/-! ## Copy engine (42_copy_engine.md) -/

/-- `OUT[WC] <- v; WC <- WC + 1` (R160). -/
def State.appendOut (s : State) (v : Byte) : State :=
  { s with out := Memory.write s.out s.wc.toNat v, wc := s.wc + 1#32 }

/-- Emit (R160): the per-call cap first, then the buffer's end. -/
def emit (v : Byte) (s : State) : Micro Unit :=
  if s.blkOutBase.toNat + s.params.blockCap ≤ s.wc.toNat then .stop { cause := .outputOverflow, info := 0#32 } s
  else if s.params.outCap ≤ s.wc.toNat then .stop { cause := .outputOverflow, info := 1#32 } s
  else .ok () (s.appendOut v)

/-- The loop of Copy (R161): one byte at a time, `src` and `WC` advancing together. -/
def copyBytes : Nat → Nat → State → Micro Unit
  | 0, _, s => .ok () s
  | length + 1, src, s => (emit (s.outAt src) s).andThen fun _ t => copyBytes length (src + 1) t

/-- `distance <- -offset` on unbounded integers (R161). -/
def copyDistance (offset : Word) : Int := -offset.toInt

/-- Copy (R161): one check before any byte is copied, then the loop. -/
def copy (offset length : Word) (s : State) : Micro Unit :=
  if (s.wc.toNat : Int) < copyDistance offset then .stop { cause := .invalidBackReference, info := offset } s
  else copyBytes length.toNat ((s.wc.toNat : Int) - copyDistance offset).toNat s

/-! ## BlockChainer (43_block_chainer.md) -/

/-- Whether the zblock list is exhausted at `ZIDX` (R173, R174). -/
def State.listExhausted (s : State) : Bool := s.zidx == 33#6 || s.zslot s.zidx.toNat == 0#32

/-- `STATE <- DONE` (R174). -/
def State.finish (s : State) : State := { s with engine := .done }

/-- The block registers and `SP` at the start of a decode call (R174). -/
def State.openBlock (s : State) : State :=
  { s with
    blkSrcBase := s.blkSrcLimit
    blkSrcLimit := s.blkSrcLimit + s.zslot s.zidx.toNat
    blkOutBase := s.wc
    sp := s.blkSrcLimit }

/-- `PHASE <- TOKEN` (R174). -/
def State.enterTokens (s : State) : State := { s with phase := .token }

/-- BlockBegin (R174; log 20). -/
def blockBegin (s : State) : Micro Unit :=
  if s.listExhausted then .ok () s.finish
  else if s.srcLen.toNat < s.blkSrcLimit.toNat + (s.zslot s.zidx.toNat).toNat then
    .stop { cause := .sourceTruncated, info := 1#32 } s
  else (initCursor s.openBlock).andThen fun _ t => .ok () t.enterTokens

/-- `ZIDX <- ZIDX + 1; PHASE <- BLOCK_BEGIN` (R176). -/
def State.closeBlock (s : State) : State := { s with zidx := s.zidx + 1#6, phase := .blockBegin }

/-- BlockEnd (R176): `consumed = SP - BLK_SRC_BASE` against the listed length, on unbounded integers. -/
def blockEnd (s : State) : Micro Unit :=
  if s.sp.toNat = s.blkSrcBase.toNat + (s.zslot s.zidx.toNat).toNat then .ok () s.closeBlock
  else .stop { cause := .zblockSizeMismatch, info := s.sp - s.blkSrcBase } s

/-- The assignments of START (R171). -/
def State.beginChain (s : State) : State :=
  { s with
    wc := 0
    sp := 0
    blkSrcBase := 0
    blkSrcLimit := 0
    blkOutBase := 0
    zidx := 0
    phase := .blockBegin
    engine := .busy }

end Sys2Proof.Machine
end

