-- ==== Sys2Proof/Machine/Command.lean ====
section
/-! DEFINITION. The host command (43_block_chainer.md R171). -/

namespace Sys2Proof.Machine

/-- `START` (R171): begins a chain in `IDLE` and `DONE`; no effect in `BUSY` and `FAULT`. -/
def execStart (s : State) : Host.Outcome State Fault Refusal :=
  match s.engine with
  | .idle => .next s.beginChain
  | .done => .next s.beginChain
  | .busy => .next s
  | .fault => .next s

end Sys2Proof.Machine
end

