-- ==== Sys2Proof/Machine/Operands.lean ====
section
/-! DEFINITION. The operand formulas of the tokens (30_encoding.md R98, 41_token_decode.md R142 to R146): offsets in
32-bit two's complement, lengths unsigned. -/

namespace Sys2Proof.Machine

/-- `SCOPY`: `0xFFFFFF00 | zext_32(v)` (R142). -/
def shortOffset (v : Byte) : Word := 0xFFFFFF00#32 ||| v.setWidth 32

/-- `SCOPY`: `((a << 1) | b) + 3`, the bit read first the more significant (R142). -/
def shortLength (a b : Bool) : Word :=
  (((BitVec.ofBool a).setWidth 32 <<< 1) ||| (BitVec.ofBool b).setWidth 32) + 3#32

/-- `LCOPY` and `XCOPY`: `(((zext_32(hi) & 0xF0) << 4) - 0x1000) | zext_32(lo)` (R143, R144, R146). -/
def longOffset (lo hi : Byte) : Word :=
  (((hi.setWidth 32 &&& 0xF0#32) <<< 4) - 0x1000#32) ||| lo.setWidth 32

/-- `LCOPY`: `(hi & 0x0F) + 3` (R143). -/
def longLength (hi : Byte) : Word := (hi.setWidth 32 &&& 0x0F#32) + 3#32

/-- `XCOPY`: `zext_32(n) + 1` (R144). -/
def extLength (n : Byte) : Word := n.setWidth 32 + 1#32

/-- `D`, the 12-bit distance field `(hi[7:4] << 8) | lo` of the long form (30_encoding.md R95). -/
def distanceField (lo hi : Byte) : BitVec 12 := (hi.setWidth 12 &&& 0xF0#12) <<< 4 ||| lo.setWidth 12

end Sys2Proof.Machine
end

