-- ==== Sys2Proof/Machine/Tokens.lean ====
section
/-! DEFINITION. The five tokens (41_token_decode.md R141 to R145). A meaning starts from the state in which the token's
control bits and raw bytes have been taken (Machine/Fetch.lean, log 11): it is the rest of the token's pseudocode. No
token writes a flag. -/

namespace Sys2Proof.Machine

/-- `LIT` (R141): `Emit(v)`. -/
def execLit (v : Byte) (s : State) : Host.Outcome State Fault Refusal := settle (emit v s)

/-- `SCOPY` (R142). -/
def execScopy (a b : Bool) (v : Byte) (s : State) : Host.Outcome State Fault Refusal :=
  settle (copy (shortOffset v) (shortLength a b) s)

/-- `LCOPY` (R143). -/
def execLcopy (lo hi : Byte) (s : State) : Host.Outcome State Fault Refusal :=
  settle (copy (longOffset lo hi) (longLength hi) s)

/-- `XCOPY` (R144): the offset of the long form, the length replaced by `n + 1`. -/
def execXcopy (lo hi n : Byte) (s : State) : Host.Outcome State Fault Refusal :=
  settle (copy (longOffset lo hi) (extLength n) s)

/-- `EOS` (R145): `BlockEnd()`; `lo` and `hi` are ignored (30_encoding.md R101). -/
def execEos (_lo _hi : Byte) (s : State) : Host.Outcome State Fault Refusal := settle (blockEnd s)

end Sys2Proof.Machine
end

