-- ==== Sys2Proof/Machine/Dispatch.lean ====
section
/-! DEFINITION. One arm per instruction (spec/opcode_table.json). -/

namespace Sys2Proof.Machine

def exec (i : Instr) (s : State) : Host.Outcome State Fault Refusal :=
  match i with
  | .lit v => Sys2Proof.Machine.execLit v s
  | .scopy a b v => Sys2Proof.Machine.execScopy a b v s
  | .lcopy lo hi => Sys2Proof.Machine.execLcopy lo hi s
  | .xcopy lo hi n => Sys2Proof.Machine.execXcopy lo hi n s
  | .eos lo hi => Sys2Proof.Machine.execEos lo hi s
  | .start => Sys2Proof.Machine.execStart s

end Sys2Proof.Machine
end

