-- ==== Sys2Proof/Machine/Fetch.lean ====
section
/-! DEFINITION. Fetching a token from WINDOW and SRC (41_token_decode.md R140), and laying an instruction out where the
machine fetches it. -/

namespace Sys2Proof.Machine

/-- The control bits and raw bytes of TokenStep (R140), taken in stream order, and the token they spell. -/
def fetchToken (s : State) : Micro Instr := readToken nextBit srcByte s

/-- The bytes `bytes` stored in SRC from index `i` upward. -/
def Memory.writeAll : Memory → Nat → List Byte → Memory
  | m, _, [] => m
  | m, i, v :: rest => Memory.writeAll (Memory.write m i v) (i + 1) rest

/-- A block of one token image at source index 0, opened as BlockBegin opens it (43_block_chainer.md R174): its marker
word is in WINDOW and `SP` is at its first raw byte (log 18). -/
def State.placeToken (s : State) (ti : Nat) : State :=
  { s with
    src := Memory.writeAll s.src 0 (imageBlock ti)
    srcLen := 5#32
    zlist := s.zlist.setIfInBounds s.zidx.toNat 5#32
    blkSrcBase := 0#32
    blkSrcLimit := 5#32
    sp := 2#32
    window := markerWord (BitVec.ofNat 8 (ti % 2 ^ imageControlBits ti)) 0#8
    count := 16#5
    cursorLoaded := true
    phase := .token
    engine := .busy
    hostMoves := [] }

/-- The host's next move is a write of `v` to `CMD`. -/
def State.placeCommand (s : State) (v : Word) : State :=
  { s with hostMoves := .writeReg 0#6 v :: s.hostMoves }

end Sys2Proof.Machine
end

