-- ==== Sys2Proof/Machine/Flags.lean ====
section
/-! DEFINITION. The engine's status: the codes of STATE, PHASE and FAULT_CAUSE, the STATUS register and the completion
line. The stream has no condition codes: no token reads or writes a flag (10_state.md section 3). -/

namespace Sys2Proof.Machine

/-- The code of `STATE` (10_state.md R46). -/
def EngineState.code : EngineState → BitVec 2
  | .idle => 0#2
  | .busy => 1#2
  | .done => 2#2
  | .fault => 3#2

/-- The code of `FAULT_CAUSE` (10_state.md R47, 60_exceptions.md R210). -/
def FaultCause.code : FaultCause → BitVec 4
  | .none => 0#4
  | .invalidBackReference => 1#4
  | .outputOverflow => 2#4
  | .sourceTruncated => 3#4
  | .zblockSizeMismatch => 4#4

/-- `STATUS`: bits [1:0] are `STATE`, bits [7:4] are `FAULT_CAUSE`, all others 0 (10_state.md R32). -/
def State.statusWord (s : State) : Word :=
  s.engine.code.setWidth 32 ||| (s.faultCause.code.setWidth 32 <<< 4)

/-- The completion line: 1 exactly when `STATE = DONE` or `STATE = FAULT` (60_exceptions.md R223; log 22). -/
def State.irq (s : State) : Bool := s.engine == .done || s.engine == .fault

end Sys2Proof.Machine
end

