-- ==== Sys2Proof/Machine/Registers.lean ====
section
/-! DEFINITION. The host's view: the register file (10_state.md R30 to R44), SRC and OUT, with the access rules of
70_reset_and_hazards.md R246. Reads never have side effects on the engine. -/

namespace Sys2Proof.Machine

/-- `BLK_CONSUMED` (10_state.md R36). -/
def State.blkConsumed (s : State) : Word := s.sp - s.blkSrcBase

/-- `BLK_PRODUCED` (10_state.md R37). -/
def State.blkProduced (s : State) : Word := s.wc - s.blkOutBase

/-- What the register numbers below `ZLIST` read as (10_state.md R30 to R42): unused upper bits are 0, `CMD` and the
unassigned numbers read 0. -/
def State.lowView (s : State) (n : Nat) : Word :=
  match n with
  | 1 => s.statusWord
  | 2 => s.srcLen
  | 3 => s.sp
  | 4 => s.wc
  | 5 => s.blkConsumed
  | 6 => s.blkProduced
  | 7 => s.zidx.setWidth 32
  | 8 => s.window.setWidth 32
  | 9 => s.count.setWidth 32
  | 10 => s.faultInfo
  | 11 => s.blkSrcBase
  | 12 => s.blkSrcLimit
  | 13 => s.blkOutBase
  | _ => 0#32

/-- What register number `n` reads as when its value is specified (10_state.md R30): `ZLIST[0..32]` at 16 to 48 (R43), the
views and status below; 14, 15 and 49 to 63 are unassigned and read 0 (R44). -/
def State.regView (s : State) (n : BitVec 6) : Word :=
  if n.toNat < 16 then s.lowView n.toNat
  else if n.toNat ≤ 48 then s.zslot (n.toNat - 16)
  else 0#32

/-- The registers whose reads are unspecified while `STATE = BUSY`: 2 to 13 and 16 to 48 (70_reset_and_hazards.md R246,
U6; log 15). -/
def hiddenWhileBusy (n : BitVec 6) : Bool :=
  decide ((2 ≤ n.toNat ∧ n.toNat ≤ 13) ∨ (16 ≤ n.toNat ∧ n.toNat ≤ 48))

/-- The unspecified value of a read, if the read is unspecified: any value in `BUSY` (R246); any 16-bit value of
`WINDOW` and any 5-bit value of `COUNT` before the first Reload after a reset (R55). -/
def State.unspecifiedRead (s : State) (n : BitVec 6) : Option Word :=
  if s.engine = .busy then
    if hiddenWhileBusy n then some (Config.freeRead s.freeReads) else none
  else if s.cursorLoaded then none
  else if n = 8#6 then some (((Config.freeRead s.freeReads).setWidth 16).setWidth 32)
  else if n = 9#6 then some (((Config.freeRead s.freeReads).setWidth 5).setWidth 32)
  else none

/-- The host gets a specified value. -/
def State.deliver (s : State) (v : Word) : State := { s with hostData := v }

/-- The host gets an unspecified value; the next one is another (log 7). -/
def State.deliverFree (s : State) (v : Word) : State :=
  { s with hostData := v, freeReads := s.freeReads + 1 }

/-- A host read of a register (10_state.md R30, 70_reset_and_hazards.md R246). -/
def readRegister (n : BitVec 6) (s : State) : State :=
  match s.unspecifiedRead n with
  | some v => s.deliverFree v
  | none => s.deliver (s.regView n)

/-- A write to a register that stores: `SRC_LEN` and `ZLIST`; all other numbers ignore it (10_state.md R30, R44). `CMD`
is handled in Machine/Engine.lean. -/
def State.storeRegister (s : State) (n : BitVec 6) (v : Word) : State :=
  if n = 2#6 then { s with srcLen := v }
  else if 16 ≤ n.toNat ∧ n.toNat ≤ 48 then { s with zlist := s.zlist.setIfInBounds (n.toNat - 16) v }
  else s

/-- Whether register writes take effect: in `IDLE` and `DONE`, not in `BUSY` and `FAULT` (10_state.md R30, R246). -/
def State.acceptsWrites (s : State) : Bool := s.engine == .idle || s.engine == .done

/-- A host write of a register other than `CMD` (10_state.md R30, 70_reset_and_hazards.md R246). -/
def writeRegister (n : BitVec 6) (v : Word) (s : State) : State :=
  if s.acceptsWrites then s.storeRegister n v else s

/-- The byte of SRC is written; every 32-bit index exists (10_state.md R48; log 21). -/
def State.storeSrc (s : State) (i : Word) (v : Byte) : State := { s with src := Memory.write s.src i.toNat v }

/-- A host write of SRC by STATE (70_reset_and_hazards.md R246): allowed in `IDLE` and `DONE`, forbidden in `BUSY` (R247:
refused, log 12), ignored in `FAULT` (log 13). -/
def writeSource (i : Word) (v : Byte) (s : State) : Host.Outcome State Fault Refusal :=
  match s.engine with
  | .idle => .next (s.storeSrc i v)
  | .done => .next (s.storeSrc i v)
  | .busy => .refused .srcWriteWhileBusy
  | .fault => .next s

/-- A host read of OUT by STATE (70_reset_and_hazards.md R246): unspecified in `BUSY`; otherwise the byte held, stale or
not, or a free value where none is held (U5). An index at or above `OUT_CAP` does not exist (10_state.md R49; log 14). -/
def readOutput (i : Word) (s : State) : Host.Outcome State Fault Refusal :=
  if s.params.outCap ≤ i.toNat then .fault .outIndexAbsent
  else if s.engine = .busy then .next (s.deliverFree (((Config.freeRead s.freeReads).setWidth 8).setWidth 32))
  else .next (s.deliver ((s.outAt i.toNat).setWidth 32))

end Sys2Proof.Machine
end

