-- ==== Sys2Proof/Machine/Engine.lean ====
section
/-! DEFINITION. What one step does: a step of the engine (43_block_chainer.md R172) or a move of the host
(70_reset_and_hazards.md R240, R246). -/

namespace Sys2Proof.Machine

/-- TokenStep (41_token_decode.md R140): take the token's material, then run the token's rule. A raise while the material
is taken ends the step there. -/
def tokenStep (s : State) : Host.Outcome State Fault Refusal :=
  match fetchToken s with
  | .ok i t => exec i t
  | .stop r t => .next (t.enterFault r)

/-- EngineStep (43_block_chainer.md R172). Outside `BUSY` the engine does not step: the state stays (log 19). -/
def engineStep (s : State) : Host.Outcome State Fault Refusal :=
  if s.engine = .busy then
    match s.phase with
    | .blockBegin => settle (blockBegin s)
    | .token => tokenStep s
  else .next s

/-- A host write of `CMD` (10_state.md R31): the value 1 is START, any other value has no effect. -/
def writeCommand (v : Word) (s : State) : Host.Outcome State Fault Refusal :=
  match decodeCommand v with
  | some i => exec i s
  | none => .next s

/-- The host's move is made. -/
def State.dropMove (s : State) (rest : List HostMove) : State := { s with hostMoves := rest }

/-- One move of the host, or the engine's step if the host waits. -/
def hostStep (m : HostMove) (s : State) : Host.Outcome State Fault Refusal :=
  match m with
  | .writeReg n v => if n = 0#6 then writeCommand v s else .next (writeRegister n v s)
  | .readReg n => .next (readRegister n s)
  | .writeSrc i v => writeSource i v s
  | .readOut i => readOutput i s
  | .reset => .next s.resetInput
  | .wait => engineStep s

/-- The next step of engine and host together (log 8). -/
def machineStep (s : State) : Host.Outcome State Fault Refusal :=
  match s.hostMoves with
  | [] => engineStep s
  | m :: rest => hostStep m (s.dropMove rest)

end Sys2Proof.Machine
end

