-- ==== Sys2Proof/Machine/Step.lean ====
section
/-! DEFINITION. The step of the machine, and an instruction placed where the next step fetches it. -/

namespace Sys2Proof.Machine

/-- One step (43_block_chainer.md R172, 70_reset_and_hazards.md R246). -/
def step (s : State) : Host.Outcome State Fault Refusal := machineStep s

/-- The instruction with the bits `w` of an opcode-table row, placed so that the next step fetches and runs it: a value
for `CMD` as the host's next move, a token image as the first token of an opened block (logs 17, 18). -/
def State.withFetchWord (s : State) (nbits w : Nat) : State :=
  if isCommandImage nbits w then s.placeCommand (BitVec.ofNat 32 w) else s.placeToken w

end Sys2Proof.Machine
end

