-- ==== Sys2Proof/Safety.lean ====
section
/-! DEFINITION. What a good state and a run of the machine are, in the terms the statements use: the invariant of
10_state.md R52, runs of several steps, the chain as one function (43_block_chainer.md R177), and a reference decoder
over lists of bytes. -/

namespace Sys2Proof.Machine

/-- The sum of the listed lengths `ZLIST[0 .. k-1]` (43_block_chainer.md R180). -/
def State.listedBefore (s : State) (k : Nat) : Nat := ((s.zlist.toList.take k).map BitVec.toNat).sum

/-- What the spec promises of every state the machine can be in (10_state.md R52, and R21, R22, R24, R47, R180 for the
single registers), with the canonical form of the two memories. -/
structure Invariant (s : State) : Prop where
  /-- 00_scope.md R6. -/
  params_legal : s.params.legal
  /-- SRC is in canonical form below 2^32 (R48). -/
  src_wf : Memory.wf (2 ^ 32) s.src = true
  /-- OUT is in canonical form below `OUT_CAP` (R49). -/
  out_wf : Memory.wf s.params.outCap s.out = true
  /-- `FAULT_CAUSE != 0` exactly when `STATE = FAULT` (R47). -/
  cause_iff : s.faultCause ≠ .none ↔ s.engine = .fault
  /-- `FAULT_INFO` is written by reset (0) and by `raise` only (R41). -/
  info_zero : s.engine ≠ .fault → s.faultInfo = 0#32
  /-- Once loaded, `COUNT` is at most 16, and 0 only in `FAULT` (R22). -/
  count_range : s.cursorLoaded = true → s.count.toNat ≤ 16 ∧ (s.engine ≠ .fault → 1 ≤ s.count.toNat)
  /-- The bits of `WINDOW` above the remaining `COUNT` bits are 0 (R21). -/
  window_bits : s.cursorLoaded = true → s.window.toNat < 2 ^ s.count.toNat
  /-- `BLK_SRC_BASE <= SP <= BLK_SRC_LIMIT` (R23). -/
  cursor_window : s.blkSrcBase.toNat ≤ s.sp.toNat ∧ s.sp.toNat ≤ s.blkSrcLimit.toNat
  /-- `BLK_OUT_BASE <= WC <= OUT_CAP` and `WC - BLK_OUT_BASE <= BLOCK_CAP` (R24, R52). -/
  out_room : s.blkOutBase.toNat ≤ s.wc.toNat ∧ s.wc.toNat ≤ s.params.outCap ∧
    s.wc.toNat ≤ s.blkOutBase.toNat + s.params.blockCap
  /-- Every byte `OUT[0 .. WC-1]` has been written (R24). -/
  written : ∀ i, i < s.wc.toNat → (Memory.read? s.out i).isSome = true
  /-- `ZIDX` is 0 to 33 (R28). -/
  zidx_range : s.zidx.toNat ≤ 33
  /-- While a chain runs, the slots before `ZIDX` are not 0 (R173). -/
  listed : s.engine = .busy → ∀ i, i < s.zidx.toNat → s.zslot i ≠ 0#32
  /-- The block registers inside a decode call (R52, R180). -/
  in_block : s.engine = .busy → s.phase = .token →
    s.cursorLoaded = true ∧ s.blkSrcBase.toNat + 2 ≤ s.sp.toNat ∧ s.blkSrcLimit.toNat ≤ s.srcLen.toNat ∧
      s.zidx.toNat ≤ 32 ∧ s.zslot s.zidx.toNat ≠ 0#32 ∧
      s.blkSrcLimit.toNat = s.blkSrcBase.toNat + (s.zslot s.zidx.toNat).toNat ∧
      s.blkSrcBase.toNat = s.listedBefore s.zidx.toNat
  /-- The block registers between decode calls (R174, R176, R180). -/
  between_blocks : s.engine = .busy → s.phase = .blockBegin →
    s.sp = s.blkSrcLimit ∧ s.blkSrcLimit.toNat ≤ s.srcLen.toNat ∧ s.blkSrcLimit.toNat = s.listedBefore s.zidx.toNat
  /-- In `STATE = DONE`, `SP = BLK_SRC_LIMIT` (R52). -/
  done_source : s.engine = .done → s.sp = s.blkSrcLimit

/-- `k` steps, stopping at the first fault or refusal. -/
def run : Nat → State → Host.Outcome State Fault Refusal
  | 0, s => .next s
  | k + 1, s =>
    match step s with
    | .next t => run k t
    | .fault f => .fault f
    | .refused r => .refused r

/-- `repeat TokenStep() until PHASE = BLOCK_BEGIN or STATE != BUSY` (43_block_chainer.md R177), at most `fuel` times. -/
def repeatTokens : Nat → State → Host.Outcome State Fault Refusal
  | 0, s => .next s
  | fuel + 1, s =>
    match tokenStep s with
    | .next t => if t.engine = .busy ∧ t.phase = .token then repeatTokens fuel t else .next t
    | .fault f => .fault f
    | .refused r => .refused r

/-- The loop of RunChain (43_block_chainer.md R177): at most `blocks` decode calls of at most `fuel` tokens each. -/
def chainLoop (fuel : Nat) : Nat → State → Host.Outcome State Fault Refusal
  | 0, s => .next s
  | blocks + 1, s =>
    match settle (blockBegin s) with
    | .next t =>
      if t.engine = .busy then
        match repeatTokens fuel t with
        | .next u => if u.engine = .busy then chainLoop fuel blocks u else .next u
        | .fault f => .fault f
        | .refused r => .refused r
      else .next t
    | .fault f => .fault f
    | .refused r => .refused r

/-- RunChain (43_block_chainer.md R177), with the bounds of 60_exceptions.md R225: 34 BlockBegin steps, `SRC_LEN` tokens. -/
def runChain (s : State) : Host.Outcome State Fault Refusal := chainLoop s.srcLen.toNat 34 s

/-- The bytes of the block's source window not yet consumed: `SRC[SP .. BLK_SRC_LIMIT-1]`. -/
def State.bytesLeft (s : State) : List Byte :=
  (List.range (s.blkSrcLimit.toNat - s.sp.toNat)).map fun i => s.srcAt (s.sp.toNat + i)

/-- The bit cursor of the machine as a byte stream (30_encoding.md R97). -/
def State.stream (s : State) : BitStream := { window := s.window, count := s.count, bytes := s.bytesLeft }

/-- The offset and length a copy token names, as numbers of its fields (41_token_decode.md R142 to R144, R146): the
distance and the length. -/
def copyNumbers : Instr → Option (Nat × Nat)
  | .scopy a b v => some (256 - v.toNat, 2 * a.toNat + b.toNat + 3)
  | .lcopy lo hi => some (4096 - (256 * (hi.toNat / 16) + lo.toNat), hi.toNat % 16 + 3)
  | .xcopy lo hi n => some (4096 - (256 * (hi.toNat / 16) + lo.toNat), n.toNat + 1)
  | _ => none

/-- The bytes of output a token produces (41_token_decode.md R148). -/
def produced : Instr → Nat
  | .lit _ => 1
  | .eos _ _ => 0
  | .start => 0
  | i => ((copyNumbers i).map Prod.snd).getD 0

/-- The control bits and the raw bytes of a token (41_token_decode.md R148). -/
def consumed : Instr → Nat × Nat
  | .lit _ => (1, 1)
  | .scopy _ _ _ => (4, 1)
  | .lcopy _ _ => (2, 2)
  | .xcopy _ _ _ => (2, 3)
  | .eos _ _ => (2, 3)
  | .start => (0, 0)

/-- How many more bytes may be written before a cap is reached (20_memory.md R70). -/
def State.roomLeft (s : State) : Nat :=
  min (s.blkOutBase.toNat + s.params.blockCap) s.params.outCap - s.wc.toNat

/-- `t` is `s` after a copy of `length` bytes at `distance`: `OUT[W0 + i] = P[i mod distance]` (42_copy_engine.md R162),
`WC` has advanced, every other byte of OUT and everything else is as before. -/
def CopiedFrom (s t : State) (distance length : Nat) : Prop :=
  t = { s with out := t.out, wc := s.wc + BitVec.ofNat 32 length } ∧
  (∀ i, i < length →
    Memory.read? t.out (s.wc.toNat + i) = some (s.outAt (s.wc.toNat - distance + i % distance))) ∧
  ∀ a, (a < s.wc.toNat ∨ s.wc.toNat + length ≤ a) → Memory.read? t.out a = Memory.read? s.out a

/-- The output produced so far, `OUT[0 .. WC-1]`, as a list. -/
def State.outBytes (s : State) : List Byte := (List.range s.wc.toNat).map s.outAt

/-- The source bytes `SRC[start .. start+length-1]` as a list. -/
def State.sourceBytes (s : State) (start length : Nat) : List Byte :=
  (List.range length).map fun i => s.srcAt (start + i)

/-! ## The reference decoder: what tokens mean on a list of bytes, with no machine -/

/-- `length` times, append the byte that stands `distance` before the end (42_copy_engine.md R161, R162). Where `distance`
exceeds the output so far the spec gives no value (R166, U4), and the machine raises InvalidBackReference (R161, R211):
taking the first byte there, and 0 on an empty list, is the model's choice (DESIGN CHOICE, log 23). -/
def expandCopy (distance : Nat) : Nat → List Byte → List Byte
  | 0, out => out
  | length + 1, out => expandCopy distance length (out ++ [out.getD (out.length - distance) 0#8])

/-- The output after one token (41_token_decode.md R141 to R145): a literal, a copy, or nothing. -/
def expandToken (out : List Byte) (i : Instr) : List Byte :=
  match i with
  | .lit v => out ++ [v]
  | i =>
    match copyNumbers i with
    | some (distance, length) => expandCopy distance length out
    | none => out

/-- The output after the tokens of a decode call, `out` being what earlier calls produced (42_copy_engine.md R163). -/
def expand (out : List Byte) (tokens : List Instr) : List Byte := tokens.foldl expandToken out

end Sys2Proof.Machine
end

