-- ==== Sys2Proof/Certificates/Slice0/Obligations.lean ====
section
/-! DEFINITION. The statements for the provers, from the numbered rules of spec/. -/

open Sys2Proof Sys2Proof.Machine

/-! ## Encoding -/

/-- Words written out from 30_encoding.md R92 to R96 and from the T-FIELDS table of 95_test_vectors.md decode to the
instruction they stand for; `START` is the value 1 of `CMD` (10_state.md R31, 30_encoding.md R105). That of the table words
of 32 bits the odd one is a value of `CMD` and the others are token images is the model's (log 17). -/
def Obligations.SampleWordsDecode : Prop :=
  decode (.token ⟨[true], [0x41#8]⟩) = .ok (.lit 0x41#8) ∧
  decode (.token ⟨[false, false, true, false], [0xFB#8]⟩) = .ok (.scopy true false 0xFB#8) ∧
  decode (.token ⟨[false, true], [0x34#8, 0x12#8]⟩) = .ok (.lcopy 0x34#8 0x12#8) ∧
  decode (.token ⟨[false, true], [0xFE#8, 0xF0#8, 0x09#8]⟩) = .ok (.xcopy 0xFE#8 0xF0#8 0x09#8) ∧
  decode (.token ⟨[false, true], [0xAB#8, 0xC0#8, 0x00#8]⟩) = .ok (.eos 0xAB#8 0xC0#8) ∧
  decode (.command 1#32) = .ok .start ∧
  decodeTableWord 16 0x083 = some (.lit 0x41#8) ∧
  decodeTableWord 16 0xFB4 = some (.scopy true false 0xFB#8) ∧
  decodeTableWord 24 0x048D2 = some (.lcopy 0x34#8 0x12#8) ∧
  decodeTableWord 32 0x027C3FA = some (.xcopy 0xFE#8 0xF0#8 0x09#8) ∧
  decodeTableWord 32 0x00302AE = some (.eos 0xAB#8 0xC0#8) ∧
  decodeTableWord 32 0x1 = some .start

/-- Decode and encode agree for every well-formed instruction, also when other material follows: the code is prefix-free
(30_encoding.md R99). -/
def Obligations.DecodeOfEncodeIsTheInstruction : Prop :=
  ∀ i : Instr, i.wellFormed = true →
    decode (encode i) = .ok i ∧
    ∀ spelling, encode i = .token spelling → ∀ moreBits moreBytes,
      decodeSpelling ⟨spelling.control ++ moreBits, spelling.raw ++ moreBytes⟩ = .ok i ⟨moreBits, moreBytes⟩

/-- 30_encoding.md R100: four control bits and three raw bytes always spell a token, no token is illegal, and the machine's
fetch stops for no other reason than missing source bytes. -/
def Obligations.EverySpellingDecodes : Prop :=
  (∀ control raw, 4 ≤ control.length → 3 ≤ raw.length →
    ∃ i spelling left, decodeSpelling ⟨control, raw⟩ = .ok i left ∧ i.wellFormed = true ∧
      encode i = .token spelling ∧ control = spelling.control ++ left.control ∧ raw = spelling.raw ++ left.raw) ∧
  (∀ s i t, fetchToken s = .ok i t → i.wellFormed = true ∧ i ≠ .start) ∧
  ∀ s r t, fetchToken s = .stop r t → r = ⟨.sourceTruncated, 0#32⟩

/-- 30_encoding.md R105 and spec/opcode_table.json: a token image selects its row by match, mask and constraint, and the
sixth row is the value 1 of `CMD`. -/
def Obligations.TokenImageSelectsItsRow : Prop :=
  ∀ w : BitVec 26,
    (w &&& 0x1#26 = 0x1#26 → decodeTableWord 26 w.toNat = some (.lit (w.extractLsb' 1 8))) ∧
    (w &&& 0x3#26 = 0x0#26 →
      decodeTableWord 26 w.toNat = some (.scopy (w.getLsbD 2) (w.getLsbD 3) (w.extractLsb' 4 8))) ∧
    (w &&& 0x3#26 = 0x2#26 → w.extractLsb' 10 4 ≠ 0#4 →
      decodeTableWord 26 w.toNat = some (.lcopy (w.extractLsb' 2 8) (w.extractLsb' 10 8))) ∧
    (w &&& 0x3C03#26 = 0x2#26 → w.extractLsb' 18 8 ≠ 0#8 →
      decodeTableWord 26 w.toNat =
        some (.xcopy (w.extractLsb' 2 8) (w.extractLsb' 10 8) (w.extractLsb' 18 8))) ∧
    (w &&& 0x3FC3C03#26 = 0x2#26 →
      decodeTableWord 26 w.toNat = some (.eos (w.extractLsb' 2 8) (w.extractLsb' 10 8))) ∧
    ∀ v : Word, decodeCommand v = if v &&& 0xFFFFFFFF#32 = 0x1#32 then some .start else none

/-- 30_encoding.md R107: the bytes the packing procedure makes of a block decode to the same token list, and the decoder
has then consumed all of them. -/
def Obligations.PackedBlockDecodesToItsTokens : Prop :=
  ∀ (tokens : List Instr) (lo hi : Byte),
    (∀ i ∈ tokens, i.wellFormed = true ∧ i ≠ .start ∧ ∀ lo hi, i ≠ .eos lo hi) → isEscape hi = true →
    ∃ left, decodeBlock (packBlock (tokens ++ [.eos lo hi])) = .ok (tokens ++ [.eos lo hi]) left ∧ left.bytes = []

/-- The machine's fetch from WINDOW and SRC reads exactly what the decoder reads from the bytes left in the block's source
window, token or missing material, and leaves the same cursor (30_encoding.md R97, 40_bitstream_reader.md R121 to R124). A
byte the host has not written counts with its free value on both sides (log 3). -/
def Obligations.FetchRefinesTheStreamDecoder : Prop :=
  ∀ s : State,
    (∀ i rest, decodeNext s.stream = .ok i rest → ∃ t, fetchToken s = .ok i t ∧ t.stream = rest) ∧
    ∀ e rest, decodeNext s.stream = .stop e rest →
      ∃ t, fetchToken s = .stop ⟨.sourceTruncated, 0#32⟩ t ∧ t.stream = rest

/-! ## Operands -/

/-- 41_token_decode.md R146: the long-form offset is `D - 4096`, as a pattern `0xFFFFF000 | D`; every distance 1 to 4096 is
reached. -/
def Obligations.LongOffsetIsDMinus4096 : Prop :=
  (∀ lo hi : Byte,
    (distanceField lo hi).toNat = 256 * (hi.toNat / 16) + lo.toNat ∧
    (longOffset lo hi).toInt = (distanceField lo hi).toNat - 4096 ∧
    longOffset lo hi = 0xFFFFF000#32 ||| (distanceField lo hi).setWidth 32 ∧
    copyDistance (longOffset lo hi) = 4096 - (distanceField lo hi).toNat) ∧
  ∀ d : BitVec 12, ∃ lo hi : Byte, distanceField lo hi = d

/-- 30_encoding.md R98: how each operand is built from the token's fields; what `EOS` forms of them is discarded. -/
def Obligations.OperandsAreThoseOfTheTable : Prop :=
  (∀ v : Byte, (shortOffset v).toInt = v.toNat - 256) ∧
  (∀ a b : Bool, (shortLength a b).toNat = 2 * a.toNat + b.toNat + 3) ∧
  (∀ lo hi : Byte, (longOffset lo hi).toInt = (distanceField lo hi).toNat - 4096) ∧
  (∀ hi : Byte, (longLength hi).toNat = hi.toNat % 16 + 3 ∧
    (isEscape hi = false → 4 ≤ (longLength hi).toNat ∧ (longLength hi).toNat ≤ 18) ∧
    (isEscape hi = true → (longLength hi).toNat = 3)) ∧
  (∀ n : Byte, (extLength n).toNat = n.toNat + 1) ∧
  ∀ (lo hi lo' hi' : Byte) (s : State), exec (.eos lo hi) s = exec (.eos lo' hi') s

/-- 30_encoding.md R103: no offset formula gives a distance of 0 or less or beyond 4096, no length formula a length below 2
or above 256; a token that completes adds nothing (`EOS`), one byte (`LIT`, which costs its own control bit) or 2 to 256
bytes, each of them the byte that stands one distance of 1 to 4096 before it. -/
def Obligations.NoTokenExceedsTheLimits : Prop :=
  (∀ v : Byte, 1 ≤ copyDistance (shortOffset v) ∧ copyDistance (shortOffset v) ≤ 256) ∧
  (∀ lo hi : Byte, 1 ≤ copyDistance (longOffset lo hi) ∧ copyDistance (longOffset lo hi) ≤ 4096) ∧
  (∀ a b : Bool, 3 ≤ (shortLength a b).toNat ∧ (shortLength a b).toNat ≤ 6) ∧
  (∀ hi : Byte, isEscape hi = false → 4 ≤ (longLength hi).toNat ∧ (longLength hi).toNat ≤ 18) ∧
  (∀ n : Byte, n ≠ 0#8 → 2 ≤ (extLength n).toNat ∧ (extLength n).toNat ≤ 256) ∧
  (∀ (s m : State) (v : Byte),
    fetchToken s = .ok (.lit v) m ↔ ∃ u, nextBit s = .ok true u ∧ srcByte u = .ok v m) ∧
  ∀ (i : Instr) (s t : State), i.wellFormed = true → i ≠ .start → s.params.legal → s.engine = .busy →
    exec i s = .next t → t.engine = .busy →
    ((∃ lo hi, i = .eos lo hi) ∧ t.wc = s.wc) ∨
    (∃ v, i = .lit v ∧ t.wc.toNat = s.wc.toNat + 1 ∧ t.outAt s.wc.toNat = v) ∨
    (s.wc.toNat + 2 ≤ t.wc.toNat ∧ t.wc.toNat ≤ s.wc.toNat + 256 ∧
      ∃ distance, 1 ≤ distance ∧ distance ≤ 4096 ∧ distance ≤ s.wc.toNat ∧
        ∀ a, s.wc.toNat ≤ a → a < t.wc.toNat → t.outAt a = t.outAt (a - distance))

/-- 30_encoding.md R102: the same copy spelled as `SCOPY`, `LCOPY` or `XCOPY` has the same effect, and length 3 beyond
distance 256 and length 2 have one spelling. -/
def Obligations.RedundantSpellingsAgree : Prop :=
  (∀ (a b : Bool) (v : Byte) (s : State),
    exec (.scopy a b v) s = exec (.xcopy v 0xF0#8 (BitVec.ofNat 8 (2 * a.toNat + b.toNat + 2))) s ∧
    (Instr.xcopy v 0xF0#8 (BitVec.ofNat 8 (2 * a.toNat + b.toNat + 2))).wellFormed = true) ∧
  (∀ (a b : Bool) (v : Byte) (s : State), (a || b) = true →
    exec (.scopy a b v) s = exec (.lcopy v (BitVec.ofNat 8 (0xF0 + 2 * a.toNat + b.toNat))) s ∧
    (Instr.lcopy v (BitVec.ofNat 8 (0xF0 + 2 * a.toNat + b.toNat))).wellFormed = true) ∧
  (∀ (lo hi : Byte) (s : State), isEscape hi = false →
    exec (.lcopy lo hi) s = exec (.xcopy lo (hi &&& 0xF0#8) (BitVec.ofNat 8 (hi.toNat % 16 + 2))) s ∧
    (Instr.xcopy lo (hi &&& 0xF0#8) (BitVec.ofNat 8 (hi.toNat % 16 + 2))).wellFormed = true) ∧
  (∀ i d, i.wellFormed = true → copyNumbers i = some (d, 3) → 256 < d → ∃ lo hi, i = .xcopy lo hi 2#8) ∧
  ∀ i d, i.wellFormed = true → copyNumbers i = some (d, 2) → ∃ lo hi, i = .xcopy lo hi 1#8

/-! ## The instructions -/

/-- 42_copy_engine.md R160 as `LIT` uses it: the per-call cap, then the buffer's end, then the byte is written and nothing
else changes. -/
def Obligations.LitEmitsItsByteOrOverflows : Prop :=
  ∀ (v : Byte) (s : State), s.params.legal →
    (s.blkOutBase.toNat + s.params.blockCap ≤ s.wc.toNat →
      exec (.lit v) s = .next (s.enterFault ⟨.outputOverflow, 0#32⟩)) ∧
    (s.wc.toNat < s.blkOutBase.toNat + s.params.blockCap → s.params.outCap ≤ s.wc.toNat →
      exec (.lit v) s = .next (s.enterFault ⟨.outputOverflow, 1#32⟩)) ∧
    (s.wc.toNat < s.blkOutBase.toNat + s.params.blockCap → s.wc.toNat < s.params.outCap →
      ∃ t, exec (.lit v) s = .next t ∧ t = { s with out := t.out, wc := s.wc + 1#32 } ∧
        t.wc.toNat = s.wc.toNat + 1 ∧ Memory.read? t.out s.wc.toNat = some v ∧
        ∀ a, a ≠ s.wc.toNat → Memory.read? t.out a = Memory.read? s.out a)

/-- 41_token_decode.md R141, the whole step of a literal: its control bit, the marker word when that bit was the 16th, its
raw byte, the output byte, and its faults in the order they can arise. -/
def Obligations.LiteralStep : Prop :=
  ∀ s : State, s.hostMoves = [] → s.engine = .busy → s.phase = .token →
    1 ≤ s.count.toNat → s.count.toNat ≤ 16 → s.window.getLsbD 0 = true →
    let bitTaken : State := { s with window := s.window >>> 1, count := s.count - 1#5 }
    let cursor : State :=
      if s.count = 1#5 then
        { bitTaken with
          window := markerWord (s.srcAt s.sp.toNat) (s.srcAt (s.sp.toNat + 1)), count := 16#5
          sp := s.sp + 2#32, cursorLoaded := true }
      else bitTaken
    (s.count = 1#5 → s.blkSrcLimit.toNat < s.sp.toNat + 2 →
      step s = .next (bitTaken.enterFault ⟨.sourceTruncated, 0#32⟩)) ∧
    ((s.count = 1#5 → s.sp.toNat + 2 ≤ s.blkSrcLimit.toNat) →
      (cursor.blkSrcLimit.toNat ≤ cursor.sp.toNat →
        step s = .next (cursor.enterFault ⟨.sourceTruncated, 0#32⟩)) ∧
      (cursor.sp.toNat < cursor.blkSrcLimit.toNat →
        let taken : State := { cursor with sp := cursor.sp + 1#32 }
        (s.blkOutBase.toNat + s.params.blockCap ≤ s.wc.toNat →
          step s = .next (taken.enterFault ⟨.outputOverflow, 0#32⟩)) ∧
        (s.wc.toNat < s.blkOutBase.toNat + s.params.blockCap → s.params.outCap ≤ s.wc.toNat →
          step s = .next (taken.enterFault ⟨.outputOverflow, 1#32⟩)) ∧
        (s.wc.toNat < s.blkOutBase.toNat + s.params.blockCap → s.wc.toNat < s.params.outCap →
          ∃ t, step s = .next t ∧ t = { taken with out := t.out, wc := s.wc + 1#32 } ∧
            Memory.read? t.out s.wc.toNat = some (s.srcAt cursor.sp.toNat) ∧
            ∀ a, a ≠ s.wc.toNat → Memory.read? t.out a = Memory.read? s.out a)))

/-- 42_copy_engine.md R162 for `SCOPY`, `LCOPY` and `XCOPY`: where the back-reference lies in the output and no cap is in
reach, the copy completes, repeats the pattern that stood below `WC`, and changes nothing else. -/
def Obligations.CopyTokensRepeatThePattern : Prop :=
  ∀ (i : Instr) (distance length : Nat) (s : State), i.wellFormed = true → copyNumbers i = some (distance, length) →
    s.params.legal → distance ≤ s.wc.toNat →
    s.wc.toNat + length ≤ s.blkOutBase.toNat + s.params.blockCap → s.wc.toNat + length ≤ s.params.outCap →
    ∃ t, exec i s = .next t ∧ CopiedFrom s t distance length

/-- 60_exceptions.md R211 for `SCOPY`, `LCOPY` and `XCOPY`: a copy that reaches before the start of the output, index 0 and
not the block's base, raises InvalidBackReference with the offset's pattern before any byte is copied, whatever room is
left; in a step, `SP` is then past the token's last raw byte, and `WC` and OUT are as before. -/
def Obligations.CopyBeforeTheStartFaults : Prop :=
  ∀ (i : Instr) (distance length : Nat), i.wellFormed = true → copyNumbers i = some (distance, length) →
    (∀ s : State, s.wc.toNat < distance →
      exec i s = .next (s.enterFault ⟨.invalidBackReference, BitVec.ofInt 32 (-(distance : Int))⟩)) ∧
    ∀ s m : State, s.hostMoves = [] → s.engine = .busy → s.phase = .token →
      1 ≤ s.count.toNat → s.count.toNat ≤ 16 → fetchToken s = .ok i m → s.wc.toNat < distance →
      ∃ t, step s = .next t ∧ t.engine = .fault ∧ t.faultCause = .invalidBackReference ∧
        t.faultInfo.toInt = -(distance : Int) ∧ t.wc = s.wc ∧ t.out = s.out ∧
        t.sp.toNat = s.sp.toNat + (consumed i).2 + (if s.count.toNat ≤ (consumed i).1 then 2 else 0)

/-- 42_copy_engine.md R165 for `SCOPY`, `LCOPY` and `XCOPY`: a copy that hits a cap part-way has written the bytes that fit
and raises OutputOverflow, 0 for the per-call cap and 1 for the buffer's end. -/
def Obligations.CopyCutShortLeavesItsFirstBytes : Prop :=
  ∀ (i : Instr) (distance length : Nat) (s : State), i.wellFormed = true → copyNumbers i = some (distance, length) →
    s.params.legal → distance ≤ s.wc.toNat →
    s.wc.toNat ≤ s.blkOutBase.toNat + s.params.blockCap → s.wc.toNat ≤ s.params.outCap → s.roomLeft < length →
    ∃ t, CopiedFrom s t distance s.roomLeft ∧
      exec i s = .next (t.enterFault
        ⟨.outputOverflow, if s.blkOutBase.toNat + s.params.blockCap ≤ s.params.outCap then 0#32 else 1#32⟩)

/-- 43_block_chainer.md R176 as `EOS` uses it: the consumed count is the listed length and the block is closed, nothing
else changed; or ZblockSizeMismatch with the consumed count, which in a run is smaller than the listed length. -/
def Obligations.EosChecksTheConsumedCount : Prop :=
  (∀ (lo hi : Byte) (s : State), s.sp.toNat = s.blkSrcBase.toNat + (s.zslot s.zidx.toNat).toNat →
    exec (.eos lo hi) s = .next { s with zidx := s.zidx + 1#6, phase := .blockBegin }) ∧
  (∀ (lo hi : Byte) (s : State), s.sp.toNat ≠ s.blkSrcBase.toNat + (s.zslot s.zidx.toNat).toNat →
    exec (.eos lo hi) s = .next (s.enterFault ⟨.zblockSizeMismatch, s.sp - s.blkSrcBase⟩)) ∧
  ∀ s t : State, Invariant s → s.hostMoves = [] → s.engine = .busy → step s = .next t →
    (t.faultCause = .zblockSizeMismatch → t.sp.toNat - t.blkSrcBase.toNat < (t.zslot t.zidx.toNat).toNat ∧
      t.faultInfo.toNat = t.sp.toNat - t.blkSrcBase.toNat) ∧
    (t.phase = .blockBegin → s.phase = .token → t.engine = .busy → t.sp = t.blkSrcLimit)

/-- 43_block_chainer.md R171: `START`, the value 1 of `CMD`, begins a chain in `IDLE` and `DONE` and has no effect in `BUSY`
and `FAULT`; straight after reset it runs a chain of zero blocks. -/
def Obligations.StartBeginsAChain : Prop :=
  (∀ v : Word, decodeCommand v = if v = 1#32 then some .start else none) ∧
  (∀ s : State,
    (s.engine = .idle ∨ s.engine = .done →
      exec .start s = .next
        { s with
          wc := 0, sp := 0, blkSrcBase := 0, blkSrcLimit := 0, blkOutBase := 0, zidx := 0
          phase := .blockBegin, engine := .busy }) ∧
    (s.engine = .busy ∨ s.engine = .fault → exec .start s = .next s)) ∧
  ∀ p : Params, ∃ t u, exec .start (State.resetFor p) = .next t ∧ step t = .next u ∧ u.engine = .done ∧
    u.zidx = 0#6 ∧ u.wc = 0#32

/-- A step runs the fetched instruction: the token that WINDOW and SRC spell, on the state in which its material has been
taken, or the command that the host writes to `CMD`; a fetch that stops ends the step with its fault. The model's choices:
the host's moves stand in a script, with a move `wait` that gives the step to the engine (log 8), and a token's step is split
into its fetch and `exec` (log 11). -/
def Obligations.StepRunsTheFetchedInstruction : Prop :=
  (∀ s i t, s.hostMoves = [] → s.engine = .busy → s.phase = .token → fetchToken s = .ok i t → step s = exec i t) ∧
  (∀ s r t, s.hostMoves = [] → s.engine = .busy → s.phase = .token → fetchToken s = .stop r t →
    step s = .next (t.enterFault r)) ∧
  (∀ s rest, s.hostMoves = .wait :: rest → step s = engineStep (s.dropMove rest)) ∧
  (∀ s, s.hostMoves = [] → step s = engineStep s) ∧
  ∀ s rest v i, s.hostMoves = .writeReg 0#6 v :: rest → decodeCommand v = some i →
    step s = exec i (s.dropMove rest)

/-- 10_state.md R31: the value 1 written to `CMD` is START, any other value has no effect, a read returns 0. That a read
returns 0 in `BUSY` too, where 70_reset_and_hazards.md R246 speaks of every other register, is the model's (log 15). -/
def Obligations.CommandRegister : Prop :=
  (∀ s rest, s.hostMoves = .writeReg 0#6 1#32 :: rest → step s = exec .start (s.dropMove rest)) ∧
  (∀ s rest v, s.hostMoves = .writeReg 0#6 v :: rest → v ≠ 1#32 → step s = .next (s.dropMove rest)) ∧
  ∀ s rest, s.hostMoves = .readReg 0#6 :: rest → step s = .next { s.dropMove rest with hostData := 0#32 }

/-- The pseudocode of 43_block_chainer.md R174: the list is exhausted, the listed block does not fit, its marker word is
missing, or the decode call is opened (R174's sentence on listed lengths 2 to 4 is log 20). -/
def Obligations.BlockBeginOpensTheNextBlock : Prop :=
  ∀ s : State, s.hostMoves = [] → s.engine = .busy → s.phase = .blockBegin →
    let z := s.zslot s.zidx.toNat
    let opened : State :=
      { s with
        blkSrcBase := s.blkSrcLimit, blkSrcLimit := s.blkSrcLimit + z, blkOutBase := s.wc, sp := s.blkSrcLimit }
    (s.zidx = 33#6 ∨ z = 0#32 → step s = .next { s with engine := .done }) ∧
    (s.zidx ≠ 33#6 → z ≠ 0#32 → s.srcLen.toNat < s.blkSrcLimit.toNat + z.toNat →
      step s = .next (s.enterFault ⟨.sourceTruncated, 1#32⟩)) ∧
    (s.zidx ≠ 33#6 → z = 1#32 → s.blkSrcLimit.toNat + 1 ≤ s.srcLen.toNat →
      step s = .next (opened.enterFault ⟨.sourceTruncated, 0#32⟩)) ∧
    (s.zidx ≠ 33#6 → 2 ≤ z.toNat → s.blkSrcLimit.toNat + z.toNat ≤ s.srcLen.toNat →
      step s = .next
        { opened with
          window := markerWord (s.srcAt s.blkSrcLimit.toNat) (s.srcAt (s.blkSrcLimit.toNat + 1))
          count := 16#5, sp := s.blkSrcLimit + 2#32, cursorLoaded := true, phase := .token })

/-! ## Accounting and bounds -/

/-- 41_token_decode.md R148: what every completed token step consumes and produces, and what a copy needs before it; and
the frame of the whole step: `LIT`, `SCOPY`, `LCOPY` and `XCOPY` change the bit cursor, `SP`, OUT and `WC` alone, `EOS` the
bit cursor, `SP`, `ZIDX` and `PHASE` alone (10_state.md R25 to R28, R41). -/
def Obligations.TokenStepAccounting : Prop :=
  ∀ s t : State, s.hostMoves = [] → s.engine = .busy → s.phase = .token → s.params.legal →
    1 ≤ s.count.toNat → s.count.toNat ≤ 16 → step s = .next t → t.engine = .busy →
    ∃ i m, fetchToken s = .ok i m ∧
      m = { s with window := m.window, count := m.count, sp := m.sp, cursorLoaded := m.cursorLoaded } ∧
      t.window = m.window ∧ t.count = m.count ∧ t.sp = m.sp ∧ t.cursorLoaded = m.cursorLoaded ∧
      t.count.toNat + (consumed i).1 = s.count.toNat + (if s.count.toNat ≤ (consumed i).1 then 16 else 0) ∧
      t.sp.toNat = s.sp.toNat + (consumed i).2 + (if s.count.toNat ≤ (consumed i).1 then 2 else 0) ∧
      t.wc.toNat = s.wc.toNat + produced i ∧
      s.sp.toNat < t.sp.toNat ∧
      (∀ distance length, copyNumbers i = some (distance, length) →
        distance ≤ s.wc.toNat ∧ CopiedFrom m t distance length) ∧
      ((∀ lo hi, i ≠ .eos lo hi) →
        t = { s with
              window := t.window, count := t.count, sp := t.sp, cursorLoaded := t.cursorLoaded
              out := t.out, wc := t.wc }) ∧
      (∀ lo hi, i = .eos lo hi →
        t = { s with
              window := t.window, count := t.count, sp := t.sp, cursorLoaded := t.cursorLoaded
              zidx := s.zidx + 1#6, phase := .blockBegin }) ∧
      ∀ a, (a < s.wc.toNat ∨ t.wc.toNat ≤ a) → Memory.read? t.out a = Memory.read? s.out a

/-- A token whose material is missing: SourceTruncated(0) with nothing but the bit cursor and `SP` changed, raised by the
reload that found `COUNT` at 0 or by a raw byte at the block's end (60_exceptions.md R213, R219). -/
def Obligations.TruncatedTokenKeepsTheOutput : Prop :=
  ∀ s t : State, s.hostMoves = [] → s.engine = .busy → s.phase = .token →
    1 ≤ s.count.toNat → s.count.toNat ≤ 16 → s.sp.toNat ≤ s.blkSrcLimit.toNat →
    step s = .next t → t.faultCause = .sourceTruncated → s.faultCause = .none →
    t = { s with
          window := t.window, count := t.count, sp := t.sp, cursorLoaded := t.cursorLoaded
          faultCause := .sourceTruncated, faultInfo := 0#32, engine := .fault } ∧
    s.sp.toNat ≤ t.sp.toNat ∧ t.sp.toNat ≤ t.blkSrcLimit.toNat ∧
    ((t.count = 0#5 ∧ t.blkSrcLimit.toNat < t.sp.toNat + 2) ∨ (t.count ≠ 0#5 ∧ t.sp = t.blkSrcLimit))

/-- 20_memory.md R70 for source reads: a token step depends on no byte of SRC outside `SP .. BLK_SRC_LIMIT-1`. A byte the
host has not written counts with its free value (log 3). -/
def Obligations.TokenStepReadsOnlyItsWindow : Prop :=
  ∀ (s t : State) (src : Memory), s.engine = .busy → s.phase = .token →
    (∀ i, s.sp.toNat ≤ i → i < s.blkSrcLimit.toNat → State.srcAt { s with src := src } i = s.srcAt i) →
    engineStep s = .next t → engineStep { s with src := src } = .next { t with src := src }

/-- 20_memory.md R60, R75: the engine writes none of its inputs. -/
def Obligations.EngineWritesNoneOfItsInputs : Prop :=
  ∀ s t : State, engineStep s = .next t →
    t.src = s.src ∧ t.srcLen = s.srcLen ∧ t.zlist = s.zlist ∧ t.params = s.params ∧ t.resets = s.resets ∧
    t.freeReads = s.freeReads ∧ t.hostMoves = s.hostMoves ∧ t.hostData = s.hostData

/-- 43_block_chainer.md R179: no step of the engine sets `WC` to a smaller value, clears or moves OUT: the bytes below the
old `WC` and those from the new `WC` upward read as before. -/
def Obligations.OutputOnlyGrows : Prop :=
  ∀ s t : State, s.params.legal → engineStep s = .next t →
    s.wc.toNat ≤ t.wc.toNat ∧
    ∀ a, (a < s.wc.toNat ∨ t.wc.toNat ≤ a) → Memory.read? t.out a = Memory.read? s.out a

/-! ## STATE and faults -/

/-- 10_state.md R46: the codes of STATE and every way it can change. -/
def Obligations.EngineStateTransitions : Prop :=
  EngineState.idle.code = 0#2 ∧ EngineState.busy.code = 1#2 ∧ EngineState.done.code = 2#2 ∧
  EngineState.fault.code = 3#2 ∧ State.reset.engine = .idle ∧
  (∀ s rest, s.hostMoves = .reset :: rest → ∃ t, step s = .next t ∧ t.engine = .idle) ∧
  ∀ s t : State, step s = .next t → t.engine ≠ s.engine →
    ((∃ rest, s.hostMoves = .reset :: rest) ∧ t.engine = .idle) ∨
    ((∃ rest, s.hostMoves = .writeReg 0#6 1#32 :: rest) ∧ (s.engine = .idle ∨ s.engine = .done) ∧ t.engine = .busy) ∨
    (s.engine = .busy ∧ s.phase = .blockBegin ∧ s.listExhausted = true ∧ t.engine = .done) ∨
    (s.engine = .busy ∧ t.engine = .fault ∧ t.faultCause ≠ .none)

/-- 60_exceptions.md R218: in `FAULT` nothing but the host's script and data changes, START included, until reset. That a
host write of SRC in `FAULT` changes nothing either (70_reset_and_hazards.md R246: "ignored or pointless") is the model's
(log 13). -/
def Obligations.FaultIsStickyUntilReset : Prop :=
  ∀ s t : State, s.engine = .fault → step s = .next t →
    ((∃ rest, s.hostMoves = .reset :: rest) ∧ t.engine = .idle ∧ t.faultCause = .none ∧ t.faultInfo = 0#32) ∨
    t = { s with hostMoves := t.hostMoves, hostData := t.hostData, freeReads := t.freeReads }

/-- Fault entry in a run (60_exceptions.md R217): `PHASE`, `ZIDX`, the inputs and the output written before stay; the
cause is one of the four. -/
def Obligations.FaultEntryKeepsTheRest : Prop :=
  ∀ s t : State, s.params.legal → s.engine = .busy → engineStep s = .next t → t.engine = .fault →
    t.phase = s.phase ∧ t.zidx = s.zidx ∧ t.srcLen = s.srcLen ∧ t.zlist = s.zlist ∧ t.src = s.src ∧
    t.faultCause ≠ .none ∧ (s.phase = .blockBegin → t.wc = s.wc ∧ t.out = s.out ∧ t.faultCause = .sourceTruncated) ∧
    ∀ a, a < s.wc.toNat → Memory.read? t.out a = Memory.read? s.out a

/-- The model stops on two moves of the host and nowhere else (logs 12 and 14): a read of an OUT index that does not exist
and a write of SRC in `BUSY`. Every step of the engine answers a next state. -/
def Obligations.StepStopsOnlyOnTheHost : Prop :=
  (∀ s, ∃ t, engineStep s = .next t) ∧
  (∀ s f, step s = .fault f ↔ f = .outIndexAbsent ∧
    ∃ i rest, s.hostMoves = .readOut i :: rest ∧ s.params.outCap ≤ i.toNat) ∧
  ∀ s r, step s = .refused r ↔ r = .srcWriteWhileBusy ∧
    ∃ i v rest, s.hostMoves = .writeSrc i v :: rest ∧ s.engine = .busy

/-! ## Runs -/

/-- The state after reset meets the invariant, for every legal choice of the parameters. -/
def Obligations.ResetMeetsTheInvariant : Prop :=
  Invariant State.reset ∧ ∀ p : Params, p.legal → Invariant (State.resetFor p)

/-- 10_state.md R52: every step, of the engine or of the host, keeps the invariant. -/
def Obligations.StepKeepsTheInvariant : Prop :=
  ∀ s t : State, Invariant s → step s = .next t → Invariant t

/-- What `DONE` means when the engine reaches it (43_block_chainer.md R178): every listed block was decoded, `SP` is the sum
of their lengths, all bytes below `WC` are written, no fault is recorded. -/
def Obligations.DoneMeansEveryListedBlockWasDecoded : Prop :=
  ∀ s t : State, Invariant s → s.engine = .busy → engineStep s = .next t → t.engine = .done →
    t.sp = t.blkSrcLimit ∧ t.sp.toNat = t.listedBefore t.zidx.toNat ∧
    (t.zidx = 33#6 ∨ t.zslot t.zidx.toNat = 0#32) ∧ (∀ i, i < t.zidx.toNat → t.zslot i ≠ 0#32) ∧
    (∀ i, i < t.wc.toNat → (Memory.read? t.out i).isSome = true) ∧ t.faultCause = .none ∧ t.faultInfo = 0#32

/-- 60_exceptions.md R225: a chain ends, in `DONE` or in `FAULT`, within `SRC_LEN` + 34 steps after START. -/
def Obligations.EveryChainEnds : Prop :=
  ∀ s : State, Invariant s → s.hostMoves = [] → (s.engine = .idle ∨ s.engine = .done) →
    ∃ k t, k ≤ s.srcLen.toNat + 34 ∧ run k s.beginChain = .next t ∧ (t.engine = .done ∨ t.engine = .fault)

/-- 43_block_chainer.md R177: the chain as one function agrees with the steps. -/
def Obligations.RunChainAgreesWithTheSteps : Prop :=
  ∀ s : State, Invariant s → s.hostMoves = [] → s.engine = .busy → s.phase = .blockBegin →
    ∃ k t, k ≤ s.srcLen.toNat + 34 ∧ runChain s = .next t ∧ run k s = .next t ∧ t.engine ≠ .busy

/-- 43_block_chainer.md R172: what a chain has done after any number of steps is a function of `ZLIST`, `SRC_LEN`, the bytes
of SRC below `SRC_LEN`, `OUT_CAP` and `BLOCK_CAP` alone: not of stale output, the old bit cursor or anything else; `WINDOW`
and `COUNT` too, once a BlockBegin of the chain has loaded them. Where the host has not written a byte of SRC below
`SRC_LEN` (93_implementation_defined.md U5 asks a proof to assume that it has), the byte counts with its free value, one
value for each index and reset epoch: there the statement is the model's (log 3). -/
def Obligations.ChainDependsOnItsInputsAlone : Prop :=
  ∀ s s' : State, Invariant s → Invariant s' → s.hostMoves = [] → s'.hostMoves = [] →
    (s.engine = .idle ∨ s.engine = .done) → (s'.engine = .idle ∨ s'.engine = .done) →
    s'.zlist = s.zlist → s'.srcLen = s.srcLen → s'.params = s.params →
    (∀ i, i < s.srcLen.toNat → s'.srcAt i = s.srcAt i) →
    ∀ k, ∃ t t', run k s.beginChain = .next t ∧ run k s'.beginChain = .next t' ∧
      t'.engine = t.engine ∧ t'.faultCause = t.faultCause ∧ t'.faultInfo = t.faultInfo ∧ t'.sp = t.sp ∧ t'.wc = t.wc ∧
      t'.blkSrcBase = t.blkSrcBase ∧ t'.blkSrcLimit = t.blkSrcLimit ∧ t'.blkOutBase = t.blkOutBase ∧
      t'.zidx = t.zidx ∧ t'.phase = t.phase ∧
      (∀ i, i < t.wc.toNat → Memory.read? t'.out i = Memory.read? t.out i) ∧
      ∀ j u, j ≤ k → run j s.beginChain = .next u → u.phase = .token → t'.window = t.window ∧ t'.count = t.count

/-- 41_token_decode.md R149, over a decode call that ends in `EOS`: its token steps are the tokens of the block's remaining
bytes, all of which are consumed; the produced count is the sum of the tokens' lengths; the bytes it wrote are what the
reference decoder makes of the tokens after the earlier output; and no byte below `WC` is written again. Unwritten bytes of
SRC count with their free values (log 3). -/
def Obligations.DecodeCallProducesItsTokens : Prop :=
  ∀ (s t : State) (k : Nat), Invariant s → s.hostMoves = [] → s.engine = .busy → s.phase = .token →
    run k s = .next t → t.engine = .busy → t.phase = .blockBegin →
    (∀ j u, j < k → run j s = .next u → u.phase = .token) →
    ∃ body lo hi left,
      decodeTokens k s.stream = .ok (body ++ [.eos lo hi]) left ∧ left.bytes = [] ∧ body.length + 1 = k ∧
      t.wc.toNat = s.wc.toNat + (body.map produced).sum ∧
      (s.wc = s.blkOutBase → t.blkProduced.toNat = (body.map produced).sum) ∧
      t.outBytes = expand s.outBytes body ∧
      ∀ j u, j ≤ k → run j s = .next u →
        s.wc.toNat ≤ u.wc.toNat ∧ u.wc.toNat ≤ t.wc.toNat ∧
        ∀ a, a < u.wc.toNat → Memory.read? t.out a = Memory.read? u.out a

/-- 43_block_chainer.md R178 over a whole chain that ends in `DONE`: every listed block's bytes decode to its tokens with
none left, `OUT[0 .. WC-1]` is the concatenation in list order of one piece for each block, each piece is what the reference
decoder appends for the block's tokens to the pieces before it, `ZIDX` is the number of blocks and `SP` the sum of their
lengths. Unwritten bytes of SRC count with their free values (log 3). -/
def Obligations.ChainOutputIsTheConcatenation : Prop :=
  ∀ (s t : State) (k : Nat), Invariant s → s.hostMoves = [] → (s.engine = .idle ∨ s.engine = .done) →
    run k s.beginChain = .next t → t.engine = .done →
    ∃ pieces : List (List Byte),
      pieces.length = t.zidx.toNat ∧ t.outBytes = pieces.flatten ∧ t.sp.toNat = s.listedBefore pieces.length ∧
      (pieces.length = 33 ∨ s.zslot pieces.length = 0#32) ∧
      ∀ j piece, pieces[j]? = some piece →
        s.zslot j ≠ 0#32 ∧
        ∃ tokens left,
          decodeBlock (s.sourceBytes (s.listedBefore j) (s.zslot j).toNat) = .ok tokens left ∧ left.bytes = [] ∧
          expand (pieces.take j).flatten tokens = (pieces.take j).flatten ++ piece ∧
          piece.length = (tokens.map produced).sum

/-! ## Reset and the host -/

/-- 10_state.md R55: what reset leaves, from every state; a START straight after it is a chain of zero blocks. The model's
choices: bytes nothing has written are not listed (logs 3, 4), registers 8 and 9 read as free values of their width (logs 6,
7), the parameters and the host's script stay (log 10). -/
def Obligations.ResetLeavesTheTable : Prop :=
  ∀ (s : State) (rest : List HostMove), s.hostMoves = .reset :: rest →
    ∃ t, step s = .next t ∧
      t.engine = .idle ∧ t.faultCause = .none ∧ t.faultInfo = 0#32 ∧ t.srcLen = 0#32 ∧ (∀ i, t.zslot i = 0#32) ∧
      t.sp = 0#32 ∧ t.wc = 0#32 ∧ t.blkSrcBase = 0#32 ∧ t.blkSrcLimit = 0#32 ∧ t.blkOutBase = 0#32 ∧ t.zidx = 0#6 ∧
      t.phase = .blockBegin ∧ (∀ i, Memory.read? t.src i = none) ∧ (∀ i, Memory.read? t.out i = none) ∧
      t.unspecifiedRead 8#6 = some (((Config.freeRead t.freeReads).setWidth 16).setWidth 32) ∧
      t.unspecifiedRead 9#6 = some (((Config.freeRead t.freeReads).setWidth 5).setWidth 32) ∧
      t.params = s.params ∧ t.hostMoves = rest ∧
      (rest = [] → step t = .next t) ∧
      ∃ u, run 2 { t with hostMoves := [.writeReg 0#6 1#32] } = .next u ∧ u.engine = .done ∧ u.wc = 0#32

/-- Host writes of the registers other than `CMD` by STATE: they store in `IDLE` and `DONE` and are ignored otherwise (10_state.md R30, R33, R43, R44; 70_reset_and_hazards.md R246). -/
def Obligations.RegisterWritesByState : Prop :=
  ∀ (s : State) (n : BitVec 6) (v : Word) (rest : List HostMove), s.hostMoves = .writeReg n v :: rest → n ≠ 0#6 →
    ∃ t, step s = .next t ∧
      (s.engine = .busy ∨ s.engine = .fault → t = s.dropMove rest) ∧
      (s.engine = .idle ∨ s.engine = .done →
        (n = 2#6 → t = { s.dropMove rest with srcLen := v }) ∧
        (16 ≤ n.toNat → n.toNat ≤ 48 →
          t = { s.dropMove rest with zlist := t.zlist } ∧ t.zslot (n.toNat - 16) = v ∧
          ∀ k, k ≠ n.toNat - 16 → t.zslot k = s.zslot k) ∧
        (n ≠ 2#6 → (n.toNat < 16 ∨ 48 < n.toNat) → t = s.dropMove rest))

/-- The register map of 10_state.md R30 as reads outside `BUSY` show it, once the bit cursor has been loaded (logs 6, 9). -/
def Obligations.RegisterReadsOutsideBusy : Prop :=
  ∀ (s : State) (n : BitVec 6) (rest : List HostMove), s.hostMoves = .readReg n :: rest → s.engine ≠ .busy →
    (s.cursorLoaded = true ∨ (n ≠ 8#6 ∧ n ≠ 9#6)) →
    ∃ v, step s = .next { s.dropMove rest with hostData := v } ∧
      (n.toNat = 0 → v = 0#32) ∧ (n.toNat = 1 → v = s.statusWord) ∧ (n.toNat = 2 → v = s.srcLen) ∧
      (n.toNat = 3 → v = s.sp) ∧ (n.toNat = 4 → v = s.wc) ∧ (n.toNat = 5 → v = s.sp - s.blkSrcBase) ∧
      (n.toNat = 6 → v = s.wc - s.blkOutBase) ∧ (n.toNat = 7 → v.toNat = s.zidx.toNat) ∧
      (n.toNat = 8 → v.toNat = s.window.toNat) ∧ (n.toNat = 9 → v.toNat = s.count.toNat) ∧
      (n.toNat = 10 → v = s.faultInfo) ∧ (n.toNat = 11 → v = s.blkSrcBase) ∧ (n.toNat = 12 → v = s.blkSrcLimit) ∧
      (n.toNat = 13 → v = s.blkOutBase) ∧ (n.toNat = 14 ∨ n.toNat = 15 ∨ 49 ≤ n.toNat → v = 0#32) ∧
      (16 ≤ n.toNat → n.toNat ≤ 48 → v = s.zslot (n.toNat - 16))

/-- Host reads while `BUSY` (70_reset_and_hazards.md R246, U6; log 15): `STATUS` is defined, `CMD` and the unassigned numbers
read 0, every other register returns a free value, a new one each time. -/
def Obligations.RegisterReadsWhileBusy : Prop :=
  ∀ (s : State) (n : BitVec 6) (rest : List HostMove), s.hostMoves = .readReg n :: rest → s.engine = .busy →
    (n = 1#6 → step s = .next { s.dropMove rest with hostData := s.statusWord }) ∧
    (n.toNat = 0 ∨ n.toNat = 14 ∨ n.toNat = 15 ∨ 49 ≤ n.toNat →
      step s = .next { s.dropMove rest with hostData := 0#32 }) ∧
    ((2 ≤ n.toNat ∧ n.toNat ≤ 13) ∨ (16 ≤ n.toNat ∧ n.toNat ≤ 48) →
      step s = .next { s.dropMove rest with hostData := Config.freeRead s.freeReads, freeReads := s.freeReads + 1 })

/-- 10_state.md R32: `STATUS` holds STATE in bits [1:0], FAULT_CAUSE in bits [7:4] and zeros elsewhere, may be read in every
state, and a read has no side effect; the example values. -/
def Obligations.StatusRegister : Prop :=
  (∀ s : State, s.statusWord.extractLsb' 0 2 = s.engine.code ∧ s.statusWord.extractLsb' 2 2 = 0#2 ∧
    s.statusWord.extractLsb' 4 4 = s.faultCause.code ∧ s.statusWord.extractLsb' 8 24 = 0#24) ∧
  (∀ s rest, s.hostMoves = .readReg 1#6 :: rest →
    step s = .next { s.dropMove rest with hostData := s.statusWord }) ∧
  ∀ s : State,
    (s.engine = .idle → s.faultCause = .none → s.statusWord = 0x00000000#32) ∧
    (s.engine = .busy → s.faultCause = .none → s.statusWord = 0x00000001#32) ∧
    (s.engine = .done → s.faultCause = .none → s.statusWord = 0x00000002#32) ∧
    (s.engine = .fault → s.faultCause = .invalidBackReference → s.statusWord = 0x00000013#32) ∧
    (s.engine = .fault → s.faultCause = .outputOverflow → s.statusWord = 0x00000023#32) ∧
    (s.engine = .fault → s.faultCause = .sourceTruncated → s.statusWord = 0x00000033#32) ∧
    (s.engine = .fault → s.faultCause = .zblockSizeMismatch → s.statusWord = 0x00000043#32)

/-- Host writes of SRC and reads of OUT by STATE (70_reset_and_hazards.md R246, R247). The model's choices: an unwritten byte
of OUT reads as a free value (log 4), a read in `BUSY` takes a new one (log 7), a byte is zero-extended (log 9), a write of
SRC is refused in `BUSY` (log 12) and ignored in `FAULT` (log 13), reads stop at `OUT_CAP` (log 14), and every 32-bit index
of SRC can be written (log 21). -/
def Obligations.MemoryAccessByState : Prop :=
  (∀ (s : State) (i : Word) (v : Byte) (rest : List HostMove), s.hostMoves = .writeSrc i v :: rest →
    (s.engine = .idle ∨ s.engine = .done →
      ∃ t, step s = .next t ∧ t = { s.dropMove rest with src := t.src } ∧ t.srcAt i.toNat = v ∧
        ∀ a, a ≠ i.toNat → Memory.read? t.src a = Memory.read? s.src a) ∧
    (s.engine = .fault → step s = .next (s.dropMove rest)) ∧
    (s.engine = .busy → step s = .refused .srcWriteWhileBusy)) ∧
  ∀ (s : State) (i : Word) (rest : List HostMove), s.hostMoves = .readOut i :: rest → i.toNat < s.params.outCap →
    (s.engine = .busy → ∃ v : Byte, step s = .next
      { s.dropMove rest with hostData := v.setWidth 32, freeReads := s.freeReads + 1 }) ∧
    (s.engine ≠ .busy → step s = .next { s.dropMove rest with hostData := (s.outAt i.toNat).setWidth 32 } ∧
      ∀ v, Memory.read? s.out i.toNat = some v → s.outAt i.toNat = v)

/-- 60_exceptions.md R223: `irq` is 1 exactly in `DONE` and `FAULT`; it falls when START leaves `DONE` and when reset leaves
either. -/
def Obligations.CompletionLine : Prop :=
  (∀ s : State, s.irq = true ↔ s.engine = .done ∨ s.engine = .fault) ∧
  (∀ s : State, s.engine = .done → ∃ t, exec .start s = .next t ∧ t.irq = false) ∧
  ∀ s rest, s.hostMoves = .reset :: rest → ∃ t, step s = .next t ∧ t.irq = false
end

