-- ==== Sys2Proof/Laws/Memory.lean ====
section
/-! SUPPORT. Laws of the byte memories: a read after a write, and the canonical form, which every operation keeps. -/

namespace Sys2Proof.Machine

/-- A read gives the byte last written there (20_memory.md R71). -/
@[simp] theorem read_write_same (m : Memory) (i : Nat) (v : Byte) : Memory.read? (Memory.write m i v) i = some v := by
  induction m with
  | nil => simp [Memory.write, Memory.read?]
  | cons c rest ih =>
    unfold Memory.write
    split
    · simp [Memory.read?]
    · split
      · simp [Memory.read?]
      · rename_i h
        have hne : ¬ c.1 = i := fun e => h e.symm
        simp [Memory.read?, hne, ih]

/-- A write leaves every other byte alone. -/
theorem read_write_other (m : Memory) (i j : Nat) (v : Byte) (h : j ≠ i) :
    Memory.read? (Memory.write m i v) j = Memory.read? m j := by
  have hij : ¬ i = j := fun e => h e.symm
  induction m with
  | nil => simp [Memory.write, Memory.read?, hij]
  | cons c rest ih =>
    unfold Memory.write
    split
    · simp [Memory.read?, hij]
    · split
      · rename_i hc
        have : ¬ c.1 = j := fun e => h (by omega)
        simp [Memory.read?, hij, this]
      · simp [Memory.read?, ih]

/-- One lemma for both: what any byte reads as after a write. -/
theorem read_write (m : Memory) (i j : Nat) (v : Byte) :
    Memory.read? (Memory.write m i v) j = if j = i then some v else Memory.read? m j := by
  split
  · rename_i h; rw [h, read_write_same]
  · rename_i h; exact read_write_other m i j v h

/-- A write never makes a byte lose its value. -/
theorem isSome_read_write (m : Memory) (i j : Nat) (v : Byte) (h : (Memory.read? m j).isSome = true) :
    (Memory.read? (Memory.write m i v) j).isSome = true := by
  rw [read_write]; split
  · rfl
  · exact h

/-- The first index of a memory lies above `b`. -/
def Memory.above (b : Nat) : Memory → Prop
  | [] => True
  | c :: _ => b < c.1

theorem wf_cons {limit : Nat} {c : Host.Cell} {rest : Memory} :
    Memory.wf limit (c :: rest) = true ↔
      c.1 < limit ∧ Memory.above c.1 rest ∧ Memory.wf limit rest = true := by
  induction rest generalizing c with
  | nil => simp [Memory.wf, Memory.above]
  | cons d rest ih =>
    have step : Memory.wf limit (c :: d :: rest) = true ↔ c.1 < d.1 ∧ Memory.wf limit (d :: rest) = true := by
      simp [Memory.wf]
    rw [step, ih]
    simp only [Memory.above]
    constructor
    · rintro ⟨h1, h2, h3, h4⟩; exact ⟨by omega, h1, h2, h3, h4⟩
    · rintro ⟨_, h1, h2, h3, h4⟩; exact ⟨h1, h2, h3, h4⟩

theorem above_write {b i : Nat} {v : Byte} {m : Memory} (h : Memory.above b m) (hi : b < i) :
    Memory.above b (Memory.write m i v) := by
  cases m with
  | nil => exact hi
  | cons c rest =>
    unfold Memory.write
    split
    · exact hi
    · split
      · exact hi
      · exact h

/-- A write keeps the canonical form. -/
theorem wf_write {limit : Nat} {m : Memory} {i : Nat} {v : Byte} (h : Memory.wf limit m = true) (hi : i < limit) :
    Memory.wf limit (Memory.write m i v) = true := by
  induction m with
  | nil => simp [Memory.write, Memory.wf, hi]
  | cons c rest ih =>
    obtain ⟨h1, h2, h3⟩ := wf_cons.mp h
    unfold Memory.write
    split
    · rename_i hlt; exact wf_cons.mpr ⟨hi, hlt, h⟩
    · split
      · rename_i heq; subst heq; exact wf_cons.mpr ⟨hi, h2, h3⟩
      · exact wf_cons.mpr ⟨h1, above_write h2 (by omega), ih h3⟩

/-- Storing bytes one after another keeps the canonical form. -/
theorem wf_writeAll {limit : Nat} (bytes : List Byte) {m : Memory} {i : Nat} (h : Memory.wf limit m = true)
    (hi : i + bytes.length ≤ limit) : Memory.wf limit (Memory.writeAll m i bytes) = true := by
  induction bytes generalizing m i with
  | nil => exact h
  | cons v rest ih =>
    simp only [List.length_cons] at hi
    exact ih (wf_write h (by omega)) (by omega)

/-- The memories of the state after reset are in canonical form. -/
theorem wf_reset (limit : Nat) :
    Memory.wf limit State.reset.src = true ∧ Memory.wf limit State.reset.out = true := ⟨rfl, rfl⟩

end Sys2Proof.Machine
end

