-- ==== Sys2Proof/Laws/State.lean ====
section
/-! SUPPORT. One lemma per field per named update of State: what the update writes and what it leaves. -/

namespace Sys2Proof.Machine

variable (s : State)

/-! ### `enterFault` -/

@[simp] theorem enterFault_window (r : Raise) : (s.enterFault r).window = s.window := rfl
@[simp] theorem enterFault_count (r : Raise) : (s.enterFault r).count = s.count := rfl
@[simp] theorem enterFault_sp (r : Raise) : (s.enterFault r).sp = s.sp := rfl
@[simp] theorem enterFault_wc (r : Raise) : (s.enterFault r).wc = s.wc := rfl
@[simp] theorem enterFault_blkSrcBase (r : Raise) : (s.enterFault r).blkSrcBase = s.blkSrcBase := rfl
@[simp] theorem enterFault_blkSrcLimit (r : Raise) : (s.enterFault r).blkSrcLimit = s.blkSrcLimit := rfl
@[simp] theorem enterFault_blkOutBase (r : Raise) : (s.enterFault r).blkOutBase = s.blkOutBase := rfl
@[simp] theorem enterFault_zidx (r : Raise) : (s.enterFault r).zidx = s.zidx := rfl
@[simp] theorem enterFault_phase (r : Raise) : (s.enterFault r).phase = s.phase := rfl
@[simp] theorem enterFault_engine (r : Raise) : (s.enterFault r).engine = .fault := rfl
@[simp] theorem enterFault_faultCause (r : Raise) : (s.enterFault r).faultCause = r.cause := rfl
@[simp] theorem enterFault_faultInfo (r : Raise) : (s.enterFault r).faultInfo = r.info := rfl
@[simp] theorem enterFault_srcLen (r : Raise) : (s.enterFault r).srcLen = s.srcLen := rfl
@[simp] theorem enterFault_zlist (r : Raise) : (s.enterFault r).zlist = s.zlist := rfl
@[simp] theorem enterFault_src (r : Raise) : (s.enterFault r).src = s.src := rfl
@[simp] theorem enterFault_out (r : Raise) : (s.enterFault r).out = s.out := rfl
@[simp] theorem enterFault_params (r : Raise) : (s.enterFault r).params = s.params := rfl
@[simp] theorem enterFault_cursorLoaded (r : Raise) : (s.enterFault r).cursorLoaded = s.cursorLoaded := rfl
@[simp] theorem enterFault_resets (r : Raise) : (s.enterFault r).resets = s.resets := rfl
@[simp] theorem enterFault_freeReads (r : Raise) : (s.enterFault r).freeReads = s.freeReads := rfl
@[simp] theorem enterFault_hostMoves (r : Raise) : (s.enterFault r).hostMoves = s.hostMoves := rfl
@[simp] theorem enterFault_hostData (r : Raise) : (s.enterFault r).hostData = s.hostData := rfl

/-! ### `loadMarker` -/

@[simp] theorem loadMarker_window : s.loadMarker.window = markerWord (s.srcAt s.sp.toNat) (s.srcAt (s.sp.toNat + 1)) := rfl
@[simp] theorem loadMarker_count : s.loadMarker.count = 16#5 := rfl
@[simp] theorem loadMarker_sp : s.loadMarker.sp = s.sp + 2#32 := rfl
@[simp] theorem loadMarker_wc : s.loadMarker.wc = s.wc := rfl
@[simp] theorem loadMarker_blkSrcBase : s.loadMarker.blkSrcBase = s.blkSrcBase := rfl
@[simp] theorem loadMarker_blkSrcLimit : s.loadMarker.blkSrcLimit = s.blkSrcLimit := rfl
@[simp] theorem loadMarker_blkOutBase : s.loadMarker.blkOutBase = s.blkOutBase := rfl
@[simp] theorem loadMarker_zidx : s.loadMarker.zidx = s.zidx := rfl
@[simp] theorem loadMarker_phase : s.loadMarker.phase = s.phase := rfl
@[simp] theorem loadMarker_engine : s.loadMarker.engine = s.engine := rfl
@[simp] theorem loadMarker_faultCause : s.loadMarker.faultCause = s.faultCause := rfl
@[simp] theorem loadMarker_faultInfo : s.loadMarker.faultInfo = s.faultInfo := rfl
@[simp] theorem loadMarker_srcLen : s.loadMarker.srcLen = s.srcLen := rfl
@[simp] theorem loadMarker_zlist : s.loadMarker.zlist = s.zlist := rfl
@[simp] theorem loadMarker_src : s.loadMarker.src = s.src := rfl
@[simp] theorem loadMarker_out : s.loadMarker.out = s.out := rfl
@[simp] theorem loadMarker_params : s.loadMarker.params = s.params := rfl
@[simp] theorem loadMarker_cursorLoaded : s.loadMarker.cursorLoaded = true := rfl
@[simp] theorem loadMarker_resets : s.loadMarker.resets = s.resets := rfl
@[simp] theorem loadMarker_freeReads : s.loadMarker.freeReads = s.freeReads := rfl
@[simp] theorem loadMarker_hostMoves : s.loadMarker.hostMoves = s.hostMoves := rfl
@[simp] theorem loadMarker_hostData : s.loadMarker.hostData = s.hostData := rfl

/-! ### `takeBit` -/

@[simp] theorem takeBit_window : s.takeBit.window = s.window >>> 1 := rfl
@[simp] theorem takeBit_count : s.takeBit.count = s.count - 1#5 := rfl
@[simp] theorem takeBit_sp : s.takeBit.sp = s.sp := rfl
@[simp] theorem takeBit_wc : s.takeBit.wc = s.wc := rfl
@[simp] theorem takeBit_blkSrcBase : s.takeBit.blkSrcBase = s.blkSrcBase := rfl
@[simp] theorem takeBit_blkSrcLimit : s.takeBit.blkSrcLimit = s.blkSrcLimit := rfl
@[simp] theorem takeBit_blkOutBase : s.takeBit.blkOutBase = s.blkOutBase := rfl
@[simp] theorem takeBit_zidx : s.takeBit.zidx = s.zidx := rfl
@[simp] theorem takeBit_phase : s.takeBit.phase = s.phase := rfl
@[simp] theorem takeBit_engine : s.takeBit.engine = s.engine := rfl
@[simp] theorem takeBit_faultCause : s.takeBit.faultCause = s.faultCause := rfl
@[simp] theorem takeBit_faultInfo : s.takeBit.faultInfo = s.faultInfo := rfl
@[simp] theorem takeBit_srcLen : s.takeBit.srcLen = s.srcLen := rfl
@[simp] theorem takeBit_zlist : s.takeBit.zlist = s.zlist := rfl
@[simp] theorem takeBit_src : s.takeBit.src = s.src := rfl
@[simp] theorem takeBit_out : s.takeBit.out = s.out := rfl
@[simp] theorem takeBit_params : s.takeBit.params = s.params := rfl
@[simp] theorem takeBit_cursorLoaded : s.takeBit.cursorLoaded = s.cursorLoaded := rfl
@[simp] theorem takeBit_resets : s.takeBit.resets = s.resets := rfl
@[simp] theorem takeBit_freeReads : s.takeBit.freeReads = s.freeReads := rfl
@[simp] theorem takeBit_hostMoves : s.takeBit.hostMoves = s.hostMoves := rfl
@[simp] theorem takeBit_hostData : s.takeBit.hostData = s.hostData := rfl

/-! ### `advanceSource` -/

@[simp] theorem advanceSource_window : s.advanceSource.window = s.window := rfl
@[simp] theorem advanceSource_count : s.advanceSource.count = s.count := rfl
@[simp] theorem advanceSource_sp : s.advanceSource.sp = s.sp + 1#32 := rfl
@[simp] theorem advanceSource_wc : s.advanceSource.wc = s.wc := rfl
@[simp] theorem advanceSource_blkSrcBase : s.advanceSource.blkSrcBase = s.blkSrcBase := rfl
@[simp] theorem advanceSource_blkSrcLimit : s.advanceSource.blkSrcLimit = s.blkSrcLimit := rfl
@[simp] theorem advanceSource_blkOutBase : s.advanceSource.blkOutBase = s.blkOutBase := rfl
@[simp] theorem advanceSource_zidx : s.advanceSource.zidx = s.zidx := rfl
@[simp] theorem advanceSource_phase : s.advanceSource.phase = s.phase := rfl
@[simp] theorem advanceSource_engine : s.advanceSource.engine = s.engine := rfl
@[simp] theorem advanceSource_faultCause : s.advanceSource.faultCause = s.faultCause := rfl
@[simp] theorem advanceSource_faultInfo : s.advanceSource.faultInfo = s.faultInfo := rfl
@[simp] theorem advanceSource_srcLen : s.advanceSource.srcLen = s.srcLen := rfl
@[simp] theorem advanceSource_zlist : s.advanceSource.zlist = s.zlist := rfl
@[simp] theorem advanceSource_src : s.advanceSource.src = s.src := rfl
@[simp] theorem advanceSource_out : s.advanceSource.out = s.out := rfl
@[simp] theorem advanceSource_params : s.advanceSource.params = s.params := rfl
@[simp] theorem advanceSource_cursorLoaded : s.advanceSource.cursorLoaded = s.cursorLoaded := rfl
@[simp] theorem advanceSource_resets : s.advanceSource.resets = s.resets := rfl
@[simp] theorem advanceSource_freeReads : s.advanceSource.freeReads = s.freeReads := rfl
@[simp] theorem advanceSource_hostMoves : s.advanceSource.hostMoves = s.hostMoves := rfl
@[simp] theorem advanceSource_hostData : s.advanceSource.hostData = s.hostData := rfl

/-! ### `appendOut` -/

@[simp] theorem appendOut_window (v : Byte) : (s.appendOut v).window = s.window := rfl
@[simp] theorem appendOut_count (v : Byte) : (s.appendOut v).count = s.count := rfl
@[simp] theorem appendOut_sp (v : Byte) : (s.appendOut v).sp = s.sp := rfl
@[simp] theorem appendOut_wc (v : Byte) : (s.appendOut v).wc = s.wc + 1#32 := rfl
@[simp] theorem appendOut_blkSrcBase (v : Byte) : (s.appendOut v).blkSrcBase = s.blkSrcBase := rfl
@[simp] theorem appendOut_blkSrcLimit (v : Byte) : (s.appendOut v).blkSrcLimit = s.blkSrcLimit := rfl
@[simp] theorem appendOut_blkOutBase (v : Byte) : (s.appendOut v).blkOutBase = s.blkOutBase := rfl
@[simp] theorem appendOut_zidx (v : Byte) : (s.appendOut v).zidx = s.zidx := rfl
@[simp] theorem appendOut_phase (v : Byte) : (s.appendOut v).phase = s.phase := rfl
@[simp] theorem appendOut_engine (v : Byte) : (s.appendOut v).engine = s.engine := rfl
@[simp] theorem appendOut_faultCause (v : Byte) : (s.appendOut v).faultCause = s.faultCause := rfl
@[simp] theorem appendOut_faultInfo (v : Byte) : (s.appendOut v).faultInfo = s.faultInfo := rfl
@[simp] theorem appendOut_srcLen (v : Byte) : (s.appendOut v).srcLen = s.srcLen := rfl
@[simp] theorem appendOut_zlist (v : Byte) : (s.appendOut v).zlist = s.zlist := rfl
@[simp] theorem appendOut_src (v : Byte) : (s.appendOut v).src = s.src := rfl
@[simp] theorem appendOut_out (v : Byte) : (s.appendOut v).out = Memory.write s.out s.wc.toNat v := rfl
@[simp] theorem appendOut_params (v : Byte) : (s.appendOut v).params = s.params := rfl
@[simp] theorem appendOut_cursorLoaded (v : Byte) : (s.appendOut v).cursorLoaded = s.cursorLoaded := rfl
@[simp] theorem appendOut_resets (v : Byte) : (s.appendOut v).resets = s.resets := rfl
@[simp] theorem appendOut_freeReads (v : Byte) : (s.appendOut v).freeReads = s.freeReads := rfl
@[simp] theorem appendOut_hostMoves (v : Byte) : (s.appendOut v).hostMoves = s.hostMoves := rfl
@[simp] theorem appendOut_hostData (v : Byte) : (s.appendOut v).hostData = s.hostData := rfl

/-! ### `finish` -/

@[simp] theorem finish_window : s.finish.window = s.window := rfl
@[simp] theorem finish_count : s.finish.count = s.count := rfl
@[simp] theorem finish_sp : s.finish.sp = s.sp := rfl
@[simp] theorem finish_wc : s.finish.wc = s.wc := rfl
@[simp] theorem finish_blkSrcBase : s.finish.blkSrcBase = s.blkSrcBase := rfl
@[simp] theorem finish_blkSrcLimit : s.finish.blkSrcLimit = s.blkSrcLimit := rfl
@[simp] theorem finish_blkOutBase : s.finish.blkOutBase = s.blkOutBase := rfl
@[simp] theorem finish_zidx : s.finish.zidx = s.zidx := rfl
@[simp] theorem finish_phase : s.finish.phase = s.phase := rfl
@[simp] theorem finish_engine : s.finish.engine = .done := rfl
@[simp] theorem finish_faultCause : s.finish.faultCause = s.faultCause := rfl
@[simp] theorem finish_faultInfo : s.finish.faultInfo = s.faultInfo := rfl
@[simp] theorem finish_srcLen : s.finish.srcLen = s.srcLen := rfl
@[simp] theorem finish_zlist : s.finish.zlist = s.zlist := rfl
@[simp] theorem finish_src : s.finish.src = s.src := rfl
@[simp] theorem finish_out : s.finish.out = s.out := rfl
@[simp] theorem finish_params : s.finish.params = s.params := rfl
@[simp] theorem finish_cursorLoaded : s.finish.cursorLoaded = s.cursorLoaded := rfl
@[simp] theorem finish_resets : s.finish.resets = s.resets := rfl
@[simp] theorem finish_freeReads : s.finish.freeReads = s.freeReads := rfl
@[simp] theorem finish_hostMoves : s.finish.hostMoves = s.hostMoves := rfl
@[simp] theorem finish_hostData : s.finish.hostData = s.hostData := rfl

/-! ### `openBlock` -/

@[simp] theorem openBlock_window : s.openBlock.window = s.window := rfl
@[simp] theorem openBlock_count : s.openBlock.count = s.count := rfl
@[simp] theorem openBlock_sp : s.openBlock.sp = s.blkSrcLimit := rfl
@[simp] theorem openBlock_wc : s.openBlock.wc = s.wc := rfl
@[simp] theorem openBlock_blkSrcBase : s.openBlock.blkSrcBase = s.blkSrcLimit := rfl
@[simp] theorem openBlock_blkSrcLimit : s.openBlock.blkSrcLimit = s.blkSrcLimit + s.zslot s.zidx.toNat := rfl
@[simp] theorem openBlock_blkOutBase : s.openBlock.blkOutBase = s.wc := rfl
@[simp] theorem openBlock_zidx : s.openBlock.zidx = s.zidx := rfl
@[simp] theorem openBlock_phase : s.openBlock.phase = s.phase := rfl
@[simp] theorem openBlock_engine : s.openBlock.engine = s.engine := rfl
@[simp] theorem openBlock_faultCause : s.openBlock.faultCause = s.faultCause := rfl
@[simp] theorem openBlock_faultInfo : s.openBlock.faultInfo = s.faultInfo := rfl
@[simp] theorem openBlock_srcLen : s.openBlock.srcLen = s.srcLen := rfl
@[simp] theorem openBlock_zlist : s.openBlock.zlist = s.zlist := rfl
@[simp] theorem openBlock_src : s.openBlock.src = s.src := rfl
@[simp] theorem openBlock_out : s.openBlock.out = s.out := rfl
@[simp] theorem openBlock_params : s.openBlock.params = s.params := rfl
@[simp] theorem openBlock_cursorLoaded : s.openBlock.cursorLoaded = s.cursorLoaded := rfl
@[simp] theorem openBlock_resets : s.openBlock.resets = s.resets := rfl
@[simp] theorem openBlock_freeReads : s.openBlock.freeReads = s.freeReads := rfl
@[simp] theorem openBlock_hostMoves : s.openBlock.hostMoves = s.hostMoves := rfl
@[simp] theorem openBlock_hostData : s.openBlock.hostData = s.hostData := rfl

/-! ### `enterTokens` -/

@[simp] theorem enterTokens_window : s.enterTokens.window = s.window := rfl
@[simp] theorem enterTokens_count : s.enterTokens.count = s.count := rfl
@[simp] theorem enterTokens_sp : s.enterTokens.sp = s.sp := rfl
@[simp] theorem enterTokens_wc : s.enterTokens.wc = s.wc := rfl
@[simp] theorem enterTokens_blkSrcBase : s.enterTokens.blkSrcBase = s.blkSrcBase := rfl
@[simp] theorem enterTokens_blkSrcLimit : s.enterTokens.blkSrcLimit = s.blkSrcLimit := rfl
@[simp] theorem enterTokens_blkOutBase : s.enterTokens.blkOutBase = s.blkOutBase := rfl
@[simp] theorem enterTokens_zidx : s.enterTokens.zidx = s.zidx := rfl
@[simp] theorem enterTokens_phase : s.enterTokens.phase = .token := rfl
@[simp] theorem enterTokens_engine : s.enterTokens.engine = s.engine := rfl
@[simp] theorem enterTokens_faultCause : s.enterTokens.faultCause = s.faultCause := rfl
@[simp] theorem enterTokens_faultInfo : s.enterTokens.faultInfo = s.faultInfo := rfl
@[simp] theorem enterTokens_srcLen : s.enterTokens.srcLen = s.srcLen := rfl
@[simp] theorem enterTokens_zlist : s.enterTokens.zlist = s.zlist := rfl
@[simp] theorem enterTokens_src : s.enterTokens.src = s.src := rfl
@[simp] theorem enterTokens_out : s.enterTokens.out = s.out := rfl
@[simp] theorem enterTokens_params : s.enterTokens.params = s.params := rfl
@[simp] theorem enterTokens_cursorLoaded : s.enterTokens.cursorLoaded = s.cursorLoaded := rfl
@[simp] theorem enterTokens_resets : s.enterTokens.resets = s.resets := rfl
@[simp] theorem enterTokens_freeReads : s.enterTokens.freeReads = s.freeReads := rfl
@[simp] theorem enterTokens_hostMoves : s.enterTokens.hostMoves = s.hostMoves := rfl
@[simp] theorem enterTokens_hostData : s.enterTokens.hostData = s.hostData := rfl

/-! ### `closeBlock` -/

@[simp] theorem closeBlock_window : s.closeBlock.window = s.window := rfl
@[simp] theorem closeBlock_count : s.closeBlock.count = s.count := rfl
@[simp] theorem closeBlock_sp : s.closeBlock.sp = s.sp := rfl
@[simp] theorem closeBlock_wc : s.closeBlock.wc = s.wc := rfl
@[simp] theorem closeBlock_blkSrcBase : s.closeBlock.blkSrcBase = s.blkSrcBase := rfl
@[simp] theorem closeBlock_blkSrcLimit : s.closeBlock.blkSrcLimit = s.blkSrcLimit := rfl
@[simp] theorem closeBlock_blkOutBase : s.closeBlock.blkOutBase = s.blkOutBase := rfl
@[simp] theorem closeBlock_zidx : s.closeBlock.zidx = s.zidx + 1#6 := rfl
@[simp] theorem closeBlock_phase : s.closeBlock.phase = .blockBegin := rfl
@[simp] theorem closeBlock_engine : s.closeBlock.engine = s.engine := rfl
@[simp] theorem closeBlock_faultCause : s.closeBlock.faultCause = s.faultCause := rfl
@[simp] theorem closeBlock_faultInfo : s.closeBlock.faultInfo = s.faultInfo := rfl
@[simp] theorem closeBlock_srcLen : s.closeBlock.srcLen = s.srcLen := rfl
@[simp] theorem closeBlock_zlist : s.closeBlock.zlist = s.zlist := rfl
@[simp] theorem closeBlock_src : s.closeBlock.src = s.src := rfl
@[simp] theorem closeBlock_out : s.closeBlock.out = s.out := rfl
@[simp] theorem closeBlock_params : s.closeBlock.params = s.params := rfl
@[simp] theorem closeBlock_cursorLoaded : s.closeBlock.cursorLoaded = s.cursorLoaded := rfl
@[simp] theorem closeBlock_resets : s.closeBlock.resets = s.resets := rfl
@[simp] theorem closeBlock_freeReads : s.closeBlock.freeReads = s.freeReads := rfl
@[simp] theorem closeBlock_hostMoves : s.closeBlock.hostMoves = s.hostMoves := rfl
@[simp] theorem closeBlock_hostData : s.closeBlock.hostData = s.hostData := rfl

/-! ### `beginChain` -/

@[simp] theorem beginChain_window : s.beginChain.window = s.window := rfl
@[simp] theorem beginChain_count : s.beginChain.count = s.count := rfl
@[simp] theorem beginChain_sp : s.beginChain.sp = 0 := rfl
@[simp] theorem beginChain_wc : s.beginChain.wc = 0 := rfl
@[simp] theorem beginChain_blkSrcBase : s.beginChain.blkSrcBase = 0 := rfl
@[simp] theorem beginChain_blkSrcLimit : s.beginChain.blkSrcLimit = 0 := rfl
@[simp] theorem beginChain_blkOutBase : s.beginChain.blkOutBase = 0 := rfl
@[simp] theorem beginChain_zidx : s.beginChain.zidx = 0 := rfl
@[simp] theorem beginChain_phase : s.beginChain.phase = .blockBegin := rfl
@[simp] theorem beginChain_engine : s.beginChain.engine = .busy := rfl
@[simp] theorem beginChain_faultCause : s.beginChain.faultCause = s.faultCause := rfl
@[simp] theorem beginChain_faultInfo : s.beginChain.faultInfo = s.faultInfo := rfl
@[simp] theorem beginChain_srcLen : s.beginChain.srcLen = s.srcLen := rfl
@[simp] theorem beginChain_zlist : s.beginChain.zlist = s.zlist := rfl
@[simp] theorem beginChain_src : s.beginChain.src = s.src := rfl
@[simp] theorem beginChain_out : s.beginChain.out = s.out := rfl
@[simp] theorem beginChain_params : s.beginChain.params = s.params := rfl
@[simp] theorem beginChain_cursorLoaded : s.beginChain.cursorLoaded = s.cursorLoaded := rfl
@[simp] theorem beginChain_resets : s.beginChain.resets = s.resets := rfl
@[simp] theorem beginChain_freeReads : s.beginChain.freeReads = s.freeReads := rfl
@[simp] theorem beginChain_hostMoves : s.beginChain.hostMoves = s.hostMoves := rfl
@[simp] theorem beginChain_hostData : s.beginChain.hostData = s.hostData := rfl

/-! ### `resetInput` -/

@[simp] theorem resetInput_window : s.resetInput.window = 0 := rfl
@[simp] theorem resetInput_count : s.resetInput.count = 0 := rfl
@[simp] theorem resetInput_sp : s.resetInput.sp = 0 := rfl
@[simp] theorem resetInput_wc : s.resetInput.wc = 0 := rfl
@[simp] theorem resetInput_blkSrcBase : s.resetInput.blkSrcBase = 0 := rfl
@[simp] theorem resetInput_blkSrcLimit : s.resetInput.blkSrcLimit = 0 := rfl
@[simp] theorem resetInput_blkOutBase : s.resetInput.blkOutBase = 0 := rfl
@[simp] theorem resetInput_zidx : s.resetInput.zidx = 0 := rfl
@[simp] theorem resetInput_phase : s.resetInput.phase = .blockBegin := rfl
@[simp] theorem resetInput_engine : s.resetInput.engine = .idle := rfl
@[simp] theorem resetInput_faultCause : s.resetInput.faultCause = .none := rfl
@[simp] theorem resetInput_faultInfo : s.resetInput.faultInfo = 0 := rfl
@[simp] theorem resetInput_srcLen : s.resetInput.srcLen = 0 := rfl
@[simp] theorem resetInput_zlist : s.resetInput.zlist = Vector.replicate 33 0 := rfl
@[simp] theorem resetInput_src : s.resetInput.src = [] := rfl
@[simp] theorem resetInput_out : s.resetInput.out = [] := rfl
@[simp] theorem resetInput_params : s.resetInput.params = s.params := rfl
@[simp] theorem resetInput_cursorLoaded : s.resetInput.cursorLoaded = false := rfl
@[simp] theorem resetInput_resets : s.resetInput.resets = s.resets + 1 := rfl
@[simp] theorem resetInput_freeReads : s.resetInput.freeReads = s.freeReads := rfl
@[simp] theorem resetInput_hostMoves : s.resetInput.hostMoves = s.hostMoves := rfl
@[simp] theorem resetInput_hostData : s.resetInput.hostData = s.hostData := rfl

/-! ### `deliver` -/

@[simp] theorem deliver_window (v : Word) : (s.deliver v).window = s.window := rfl
@[simp] theorem deliver_count (v : Word) : (s.deliver v).count = s.count := rfl
@[simp] theorem deliver_sp (v : Word) : (s.deliver v).sp = s.sp := rfl
@[simp] theorem deliver_wc (v : Word) : (s.deliver v).wc = s.wc := rfl
@[simp] theorem deliver_blkSrcBase (v : Word) : (s.deliver v).blkSrcBase = s.blkSrcBase := rfl
@[simp] theorem deliver_blkSrcLimit (v : Word) : (s.deliver v).blkSrcLimit = s.blkSrcLimit := rfl
@[simp] theorem deliver_blkOutBase (v : Word) : (s.deliver v).blkOutBase = s.blkOutBase := rfl
@[simp] theorem deliver_zidx (v : Word) : (s.deliver v).zidx = s.zidx := rfl
@[simp] theorem deliver_phase (v : Word) : (s.deliver v).phase = s.phase := rfl
@[simp] theorem deliver_engine (v : Word) : (s.deliver v).engine = s.engine := rfl
@[simp] theorem deliver_faultCause (v : Word) : (s.deliver v).faultCause = s.faultCause := rfl
@[simp] theorem deliver_faultInfo (v : Word) : (s.deliver v).faultInfo = s.faultInfo := rfl
@[simp] theorem deliver_srcLen (v : Word) : (s.deliver v).srcLen = s.srcLen := rfl
@[simp] theorem deliver_zlist (v : Word) : (s.deliver v).zlist = s.zlist := rfl
@[simp] theorem deliver_src (v : Word) : (s.deliver v).src = s.src := rfl
@[simp] theorem deliver_out (v : Word) : (s.deliver v).out = s.out := rfl
@[simp] theorem deliver_params (v : Word) : (s.deliver v).params = s.params := rfl
@[simp] theorem deliver_cursorLoaded (v : Word) : (s.deliver v).cursorLoaded = s.cursorLoaded := rfl
@[simp] theorem deliver_resets (v : Word) : (s.deliver v).resets = s.resets := rfl
@[simp] theorem deliver_freeReads (v : Word) : (s.deliver v).freeReads = s.freeReads := rfl
@[simp] theorem deliver_hostMoves (v : Word) : (s.deliver v).hostMoves = s.hostMoves := rfl
@[simp] theorem deliver_hostData (v : Word) : (s.deliver v).hostData = v := rfl

/-! ### `deliverFree` -/

@[simp] theorem deliverFree_window (v : Word) : (s.deliverFree v).window = s.window := rfl
@[simp] theorem deliverFree_count (v : Word) : (s.deliverFree v).count = s.count := rfl
@[simp] theorem deliverFree_sp (v : Word) : (s.deliverFree v).sp = s.sp := rfl
@[simp] theorem deliverFree_wc (v : Word) : (s.deliverFree v).wc = s.wc := rfl
@[simp] theorem deliverFree_blkSrcBase (v : Word) : (s.deliverFree v).blkSrcBase = s.blkSrcBase := rfl
@[simp] theorem deliverFree_blkSrcLimit (v : Word) : (s.deliverFree v).blkSrcLimit = s.blkSrcLimit := rfl
@[simp] theorem deliverFree_blkOutBase (v : Word) : (s.deliverFree v).blkOutBase = s.blkOutBase := rfl
@[simp] theorem deliverFree_zidx (v : Word) : (s.deliverFree v).zidx = s.zidx := rfl
@[simp] theorem deliverFree_phase (v : Word) : (s.deliverFree v).phase = s.phase := rfl
@[simp] theorem deliverFree_engine (v : Word) : (s.deliverFree v).engine = s.engine := rfl
@[simp] theorem deliverFree_faultCause (v : Word) : (s.deliverFree v).faultCause = s.faultCause := rfl
@[simp] theorem deliverFree_faultInfo (v : Word) : (s.deliverFree v).faultInfo = s.faultInfo := rfl
@[simp] theorem deliverFree_srcLen (v : Word) : (s.deliverFree v).srcLen = s.srcLen := rfl
@[simp] theorem deliverFree_zlist (v : Word) : (s.deliverFree v).zlist = s.zlist := rfl
@[simp] theorem deliverFree_src (v : Word) : (s.deliverFree v).src = s.src := rfl
@[simp] theorem deliverFree_out (v : Word) : (s.deliverFree v).out = s.out := rfl
@[simp] theorem deliverFree_params (v : Word) : (s.deliverFree v).params = s.params := rfl
@[simp] theorem deliverFree_cursorLoaded (v : Word) : (s.deliverFree v).cursorLoaded = s.cursorLoaded := rfl
@[simp] theorem deliverFree_resets (v : Word) : (s.deliverFree v).resets = s.resets := rfl
@[simp] theorem deliverFree_freeReads (v : Word) : (s.deliverFree v).freeReads = s.freeReads + 1 := rfl
@[simp] theorem deliverFree_hostMoves (v : Word) : (s.deliverFree v).hostMoves = s.hostMoves := rfl
@[simp] theorem deliverFree_hostData (v : Word) : (s.deliverFree v).hostData = v := rfl

/-! ### `storeSrc` -/

@[simp] theorem storeSrc_window (i : Word) (v : Byte) : (s.storeSrc i v).window = s.window := rfl
@[simp] theorem storeSrc_count (i : Word) (v : Byte) : (s.storeSrc i v).count = s.count := rfl
@[simp] theorem storeSrc_sp (i : Word) (v : Byte) : (s.storeSrc i v).sp = s.sp := rfl
@[simp] theorem storeSrc_wc (i : Word) (v : Byte) : (s.storeSrc i v).wc = s.wc := rfl
@[simp] theorem storeSrc_blkSrcBase (i : Word) (v : Byte) : (s.storeSrc i v).blkSrcBase = s.blkSrcBase := rfl
@[simp] theorem storeSrc_blkSrcLimit (i : Word) (v : Byte) : (s.storeSrc i v).blkSrcLimit = s.blkSrcLimit := rfl
@[simp] theorem storeSrc_blkOutBase (i : Word) (v : Byte) : (s.storeSrc i v).blkOutBase = s.blkOutBase := rfl
@[simp] theorem storeSrc_zidx (i : Word) (v : Byte) : (s.storeSrc i v).zidx = s.zidx := rfl
@[simp] theorem storeSrc_phase (i : Word) (v : Byte) : (s.storeSrc i v).phase = s.phase := rfl
@[simp] theorem storeSrc_engine (i : Word) (v : Byte) : (s.storeSrc i v).engine = s.engine := rfl
@[simp] theorem storeSrc_faultCause (i : Word) (v : Byte) : (s.storeSrc i v).faultCause = s.faultCause := rfl
@[simp] theorem storeSrc_faultInfo (i : Word) (v : Byte) : (s.storeSrc i v).faultInfo = s.faultInfo := rfl
@[simp] theorem storeSrc_srcLen (i : Word) (v : Byte) : (s.storeSrc i v).srcLen = s.srcLen := rfl
@[simp] theorem storeSrc_zlist (i : Word) (v : Byte) : (s.storeSrc i v).zlist = s.zlist := rfl
@[simp] theorem storeSrc_src (i : Word) (v : Byte) : (s.storeSrc i v).src = Memory.write s.src i.toNat v := rfl
@[simp] theorem storeSrc_out (i : Word) (v : Byte) : (s.storeSrc i v).out = s.out := rfl
@[simp] theorem storeSrc_params (i : Word) (v : Byte) : (s.storeSrc i v).params = s.params := rfl
@[simp] theorem storeSrc_cursorLoaded (i : Word) (v : Byte) : (s.storeSrc i v).cursorLoaded = s.cursorLoaded := rfl
@[simp] theorem storeSrc_resets (i : Word) (v : Byte) : (s.storeSrc i v).resets = s.resets := rfl
@[simp] theorem storeSrc_freeReads (i : Word) (v : Byte) : (s.storeSrc i v).freeReads = s.freeReads := rfl
@[simp] theorem storeSrc_hostMoves (i : Word) (v : Byte) : (s.storeSrc i v).hostMoves = s.hostMoves := rfl
@[simp] theorem storeSrc_hostData (i : Word) (v : Byte) : (s.storeSrc i v).hostData = s.hostData := rfl

/-! ### `dropMove` -/

@[simp] theorem dropMove_window (rest : List HostMove) : (s.dropMove rest).window = s.window := rfl
@[simp] theorem dropMove_count (rest : List HostMove) : (s.dropMove rest).count = s.count := rfl
@[simp] theorem dropMove_sp (rest : List HostMove) : (s.dropMove rest).sp = s.sp := rfl
@[simp] theorem dropMove_wc (rest : List HostMove) : (s.dropMove rest).wc = s.wc := rfl
@[simp] theorem dropMove_blkSrcBase (rest : List HostMove) : (s.dropMove rest).blkSrcBase = s.blkSrcBase := rfl
@[simp] theorem dropMove_blkSrcLimit (rest : List HostMove) : (s.dropMove rest).blkSrcLimit = s.blkSrcLimit := rfl
@[simp] theorem dropMove_blkOutBase (rest : List HostMove) : (s.dropMove rest).blkOutBase = s.blkOutBase := rfl
@[simp] theorem dropMove_zidx (rest : List HostMove) : (s.dropMove rest).zidx = s.zidx := rfl
@[simp] theorem dropMove_phase (rest : List HostMove) : (s.dropMove rest).phase = s.phase := rfl
@[simp] theorem dropMove_engine (rest : List HostMove) : (s.dropMove rest).engine = s.engine := rfl
@[simp] theorem dropMove_faultCause (rest : List HostMove) : (s.dropMove rest).faultCause = s.faultCause := rfl
@[simp] theorem dropMove_faultInfo (rest : List HostMove) : (s.dropMove rest).faultInfo = s.faultInfo := rfl
@[simp] theorem dropMove_srcLen (rest : List HostMove) : (s.dropMove rest).srcLen = s.srcLen := rfl
@[simp] theorem dropMove_zlist (rest : List HostMove) : (s.dropMove rest).zlist = s.zlist := rfl
@[simp] theorem dropMove_src (rest : List HostMove) : (s.dropMove rest).src = s.src := rfl
@[simp] theorem dropMove_out (rest : List HostMove) : (s.dropMove rest).out = s.out := rfl
@[simp] theorem dropMove_params (rest : List HostMove) : (s.dropMove rest).params = s.params := rfl
@[simp] theorem dropMove_cursorLoaded (rest : List HostMove) : (s.dropMove rest).cursorLoaded = s.cursorLoaded := rfl
@[simp] theorem dropMove_resets (rest : List HostMove) : (s.dropMove rest).resets = s.resets := rfl
@[simp] theorem dropMove_freeReads (rest : List HostMove) : (s.dropMove rest).freeReads = s.freeReads := rfl
@[simp] theorem dropMove_hostMoves (rest : List HostMove) : (s.dropMove rest).hostMoves = rest := rfl
@[simp] theorem dropMove_hostData (rest : List HostMove) : (s.dropMove rest).hostData = s.hostData := rfl

end Sys2Proof.Machine
end

