-- ==== Sys2Proof/Laws/Ops.lean ====
section
/-! SUPPORT. One lemma per shared operation that says once everything it can do. -/

namespace Sys2Proof.Machine

@[simp] theorem andThen_ok {ε σ α β : Type} (a : α) (s : σ) (f : α → σ → Reading ε σ β) :
    (Reading.ok a s : Reading ε σ α).andThen f = f a s := rfl

@[simp] theorem andThen_stop {ε σ α β : Type} (e : ε) (s : σ) (f : α → σ → Reading ε σ β) :
    (Reading.stop e s : Reading ε σ α).andThen f = .stop e s := rfl

/-- A sequence answers only after its first operation has answered. -/
theorem andThen_eq_ok {ε σ α β : Type} {r : Reading ε σ α} {f : α → σ → Reading ε σ β} {b : β} {t : σ} :
    r.andThen f = .ok b t ↔ ∃ a s, r = .ok a s ∧ f a s = .ok b t := by
  cases r with
  | ok a s => exact ⟨fun h => ⟨a, s, rfl, h⟩, fun ⟨_, _, h, h'⟩ => by cases h; exact h'⟩
  | stop e s => exact ⟨fun h => by simp at h, fun ⟨_, _, h, _⟩ => by cases h⟩

/-- A sequence stops in its first operation or in what follows it. -/
theorem andThen_eq_stop {ε σ α β : Type} {r : Reading ε σ α} {f : α → σ → Reading ε σ β} {e : ε} {t : σ} :
    r.andThen f = .stop e t ↔ r = .stop e t ∨ ∃ a s, r = .ok a s ∧ f a s = .stop e t := by
  cases r with
  | ok a s =>
    exact ⟨fun h => .inr ⟨a, s, rfl, h⟩, fun h => by
      rcases h with h | ⟨_, _, h, h'⟩
      · cases h
      · cases h; exact h'⟩
  | stop e' s =>
    constructor
    · intro h; exact .inl (by simpa using h)
    · rintro (h | ⟨_, _, h, _⟩)
      · simpa using h
      · cases h

/-- How a step of the engine ends: always in a next state, that of the operation or fault entry at its raise. -/
theorem settle_eq_next {m : Micro Unit} {t : State} :
    settle m = .next t ↔ m = .ok () t ∨ ∃ r s, m = .stop r s ∧ t = s.enterFault r := by
  cases m with
  | ok a s => simp [settle]
  | stop r s =>
    simp only [settle, Host.Outcome.next.injEq, Reading.stop.injEq, reduceCtorEq, false_or]
    constructor
    · intro h; exact ⟨r, s, ⟨rfl, rfl⟩, h.symm⟩
    · rintro ⟨_, _, ⟨rfl, rfl⟩, h⟩; exact h.symm

/-- Reload (R121): two bytes fit and the window is loaded, or nothing happens and SourceTruncated(0) is raised. -/
theorem reload_cases (s : State) :
    (s.sp.toNat + 2 ≤ s.blkSrcLimit.toNat ∧ reload s = .ok () s.loadMarker) ∨
    (s.blkSrcLimit.toNat < s.sp.toNat + 2 ∧ reload s = .stop ⟨.sourceTruncated, 0#32⟩ s) := by
  unfold reload
  by_cases h : s.blkSrcLimit.toNat < s.sp.toNat + 2
  · exact .inr ⟨h, by rw [if_pos h]⟩
  · exact .inl ⟨by omega, by rw [if_neg h]⟩

/-- NextBit (R123): a plain shift; a shift that empties the window and reloads it; or one whose reload raises. -/
theorem nextBit_cases (s : State) :
    (s.takeBit.count ≠ 0#5 ∧ nextBit s = .ok (s.window.getLsbD 0) s.takeBit) ∨
    (s.takeBit.count = 0#5 ∧ s.sp.toNat + 2 ≤ s.blkSrcLimit.toNat ∧
      nextBit s = .ok (s.window.getLsbD 0) s.takeBit.loadMarker) ∨
    (s.takeBit.count = 0#5 ∧ s.blkSrcLimit.toNat < s.sp.toNat + 2 ∧
      nextBit s = .stop ⟨.sourceTruncated, 0#32⟩ s.takeBit) := by
  unfold nextBit
  by_cases h : s.takeBit.count = 0#5
  · rw [if_pos h]
    rcases reload_cases s.takeBit with ⟨h1, h2⟩ | ⟨h1, h2⟩
    · exact .inr (.inl ⟨h, h1, by rw [h2]; rfl⟩)
    · exact .inr (.inr ⟨h, h1, by rw [h2]; rfl⟩)
  · exact .inl ⟨h, by rw [if_neg h]⟩

/-- SrcByte (R124): the byte at `SP`, or SourceTruncated(0) with nothing changed. -/
theorem srcByte_cases (s : State) :
    (s.sp.toNat < s.blkSrcLimit.toNat ∧ srcByte s = .ok (s.srcAt s.sp.toNat) s.advanceSource) ∨
    (s.blkSrcLimit.toNat ≤ s.sp.toNat ∧ srcByte s = .stop ⟨.sourceTruncated, 0#32⟩ s) := by
  unfold srcByte
  by_cases h : s.blkSrcLimit.toNat ≤ s.sp.toNat
  · exact .inr ⟨h, by rw [if_pos h]⟩
  · exact .inl ⟨by omega, by rw [if_neg h]⟩

/-- Emit (R160): the per-call cap, then the buffer's end, then the write. -/
theorem emit_cases (v : Byte) (s : State) :
    (s.blkOutBase.toNat + s.params.blockCap ≤ s.wc.toNat ∧ emit v s = .stop ⟨.outputOverflow, 0#32⟩ s) ∨
    (s.wc.toNat < s.blkOutBase.toNat + s.params.blockCap ∧ s.params.outCap ≤ s.wc.toNat ∧
      emit v s = .stop ⟨.outputOverflow, 1#32⟩ s) ∨
    (s.wc.toNat < s.blkOutBase.toNat + s.params.blockCap ∧ s.wc.toNat < s.params.outCap ∧
      emit v s = .ok () (s.appendOut v)) := by
  unfold emit
  by_cases h : s.blkOutBase.toNat + s.params.blockCap ≤ s.wc.toNat
  · exact .inl ⟨h, by rw [if_pos h]⟩
  · by_cases h' : s.params.outCap ≤ s.wc.toNat
    · exact .inr (.inl ⟨by omega, h', by rw [if_neg h, if_pos h']⟩)
    · exact .inr (.inr ⟨by omega, by omega, by rw [if_neg h, if_neg h']⟩)

/-- The copy loop one byte further (R161). -/
theorem copyBytes_succ (length src : Nat) (s : State) :
    copyBytes (length + 1) src s =
      (emit (s.outAt src) s).andThen fun _ t => copyBytes length (src + 1) t := rfl

/-- Copy (R161): InvalidBackReference before any byte, or the loop from `WC - distance`. -/
theorem copy_cases (offset length : Word) (s : State) :
    ((s.wc.toNat : Int) < -offset.toInt ∧ copy offset length s = .stop ⟨.invalidBackReference, offset⟩ s) ∨
    (-offset.toInt ≤ (s.wc.toNat : Int) ∧
      copy offset length s = copyBytes length.toNat ((s.wc.toNat : Int) + offset.toInt).toNat s) := by
  unfold copy copyDistance
  by_cases h : (s.wc.toNat : Int) < -offset.toInt
  · exact .inl ⟨h, by rw [if_pos h]⟩
  · exact .inr ⟨by omega, by rw [if_neg h]; congr 1; omega⟩

/-- BlockBegin (R174): the end of the chain, a listed block that does not fit, a marker word that is missing, or an opened
block. -/
theorem blockBegin_cases (s : State) :
    (s.listExhausted = true ∧ blockBegin s = .ok () s.finish) ∨
    (s.listExhausted = false ∧ s.srcLen.toNat < s.blkSrcLimit.toNat + (s.zslot s.zidx.toNat).toNat ∧
      blockBegin s = .stop ⟨.sourceTruncated, 1#32⟩ s) ∨
    (s.listExhausted = false ∧ s.blkSrcLimit.toNat + (s.zslot s.zidx.toNat).toNat ≤ s.srcLen.toNat ∧
      s.openBlock.blkSrcLimit.toNat < s.openBlock.sp.toNat + 2 ∧
      blockBegin s = .stop ⟨.sourceTruncated, 0#32⟩ s.openBlock) ∨
    (s.listExhausted = false ∧ s.blkSrcLimit.toNat + (s.zslot s.zidx.toNat).toNat ≤ s.srcLen.toNat ∧
      s.openBlock.sp.toNat + 2 ≤ s.openBlock.blkSrcLimit.toNat ∧
      blockBegin s = .ok () s.openBlock.loadMarker.enterTokens) := by
  unfold blockBegin initCursor
  cases he : s.listExhausted with
  | true => exact .inl ⟨rfl, by simp⟩
  | false =>
    refine .inr ?_
    simp only [Bool.false_eq_true, if_false]
    by_cases h : s.srcLen.toNat < s.blkSrcLimit.toNat + (s.zslot s.zidx.toNat).toNat
    · exact .inl ⟨trivial, h, by rw [if_pos h]⟩
    · refine .inr ?_
      rw [if_neg h]
      rcases reload_cases s.openBlock with ⟨h1, h2⟩ | ⟨h1, h2⟩
      · exact .inr ⟨trivial, by omega, h1, by rw [h2]; rfl⟩
      · exact .inl ⟨trivial, by omega, h1, by rw [h2]; rfl⟩

/-- BlockEnd (R176): the consumed count is the listed length and the block is closed, or ZblockSizeMismatch. -/
theorem blockEnd_cases (s : State) :
    (s.sp.toNat = s.blkSrcBase.toNat + (s.zslot s.zidx.toNat).toNat ∧ blockEnd s = .ok () s.closeBlock) ∨
    (s.sp.toNat ≠ s.blkSrcBase.toNat + (s.zslot s.zidx.toNat).toNat ∧
      blockEnd s = .stop ⟨.zblockSizeMismatch, s.sp - s.blkSrcBase⟩ s) := by
  unfold blockEnd
  by_cases h : s.sp.toNat = s.blkSrcBase.toNat + (s.zslot s.zidx.toNat).toNat
  · exact .inl ⟨h, by rw [if_pos h]⟩
  · exact .inr ⟨h, by rw [if_neg h]⟩

/-- The state a micro-operation ends in, whether it answers or raises. -/
def endState {α : Type} : Micro α → State
  | .ok _ t => t
  | .stop _ t => t

/-- What the copy loop can change: OUT and `WC`. -/
theorem copyBytes_frame (length src : Nat) (s : State) :
    endState (copyBytes length src s) =
      { s with out := (endState (copyBytes length src s)).out, wc := (endState (copyBytes length src s)).wc } := by
  induction length generalizing src s with
  | zero => rfl
  | succ n ih =>
    rw [copyBytes_succ]
    rcases emit_cases (s.outAt src) s with ⟨_, h⟩ | ⟨_, _, h⟩ | ⟨_, _, h⟩
    · rw [h]; rfl
    · rw [h]; rfl
    · rw [h]
      simp only [andThen_ok]
      have := ih (src + 1) (s.appendOut (s.outAt src))
      exact this

/-- A copy loop raises nothing but OutputOverflow. -/
theorem copyBytes_stop {length src : Nat} {s t : State} {r : Raise} (h : copyBytes length src s = .stop r t) :
    r.cause = .outputOverflow := by
  induction length generalizing src s with
  | zero => cases h
  | succ n ih =>
    rw [copyBytes_succ] at h
    rcases emit_cases (s.outAt src) s with ⟨_, h'⟩ | ⟨_, _, h'⟩ | ⟨_, _, h'⟩
    · rw [h'] at h; cases h; rfl
    · rw [h'] at h; cases h; rfl
    · rw [h'] at h; exact ih h

/-- A copy loop is the loop over its first bytes, then the loop over the rest. -/
theorem copyBytes_add (a b src : Nat) (s : State) :
    copyBytes (a + b) src s = (copyBytes a src s).andThen fun _ t => copyBytes b (src + a) t := by
  induction a generalizing src s with
  | zero => simp [copyBytes]
  | succ a ih =>
    rw [show a + 1 + b = (a + b) + 1 by omega, copyBytes_succ, copyBytes_succ]
    cases emit (s.outAt src) s with
    | ok x t =>
      simp only [andThen_ok]
      rw [ih]
      congr 1
      funext _ _
      congr 1
      omega
    | stop => rfl

/-- A copy loop with room for all its bytes: each byte written is the byte that then stands at its source index, and
nothing else changes (R161). -/
theorem copyBytes_completes (length src : Nat) (s : State) (legal : s.params.legal) (below : src < s.wc.toNat)
    (blockRoom : s.wc.toNat + length ≤ s.blkOutBase.toNat + s.params.blockCap)
    (outRoom : s.wc.toNat + length ≤ s.params.outCap) :
    ∃ t, copyBytes length src s = .ok () t ∧ t = { s with out := t.out, wc := s.wc + BitVec.ofNat 32 length } ∧
      (∀ i, i < length → Memory.read? t.out (s.wc.toNat + i) = some (t.outAt (src + i))) ∧
      ∀ a, (a < s.wc.toNat ∨ s.wc.toNat + length ≤ a) → Memory.read? t.out a = Memory.read? s.out a := by
  induction length generalizing src s with
  | zero => exact ⟨s, rfl, by simp, by intro i hi; omega, by intros; rfl⟩
  | succ n ih =>
    rcases emit_cases (s.outAt src) s with ⟨h, _⟩ | ⟨_, h, _⟩ | ⟨_, _, e⟩
    · omega
    · omega
    have hw : (s.appendOut (s.outAt src)).wc.toNat = s.wc.toNat + 1 := by
      have := legal.2.2
      simp
      omega
    obtain ⟨t, ht, hf, hv, ho⟩ := ih (src + 1) (s.appendOut (s.outAt src)) legal (by omega)
      (by rw [hw]; simp; omega) (by rw [hw]; simp; omega)
    rw [hw] at hv ho
    refine ⟨t, by rw [copyBytes_succ, e]; exact ht, ?_, ?_, ?_⟩
    · have hx : (s.appendOut (s.outAt src)).wc + BitVec.ofNat 32 n = s.wc + BitVec.ofNat 32 (n + 1) := by
        apply BitVec.eq_of_toNat_eq
        simp
        congr 1
        omega
      conv_lhs => rw [hf, hx]
      rfl
    · intro i hi
      rcases i with _ | i
      · have hr : t.resets = s.resets := by rw [hf]; rfl
        have same : t.outAt src = s.outAt src := by
          simp only [State.outAt, ho src (.inl (by omega)), hr, appendOut_out,
            read_write_other _ _ _ _ (show src ≠ s.wc.toNat by omega)]
        rw [Nat.add_zero, Nat.add_zero, ho s.wc.toNat (.inl (by omega)), same]
        simp
      · rw [show s.wc.toNat + (i + 1) = s.wc.toNat + 1 + i by omega, hv i (by omega)]
        congr 2
        omega
    · intro a ha
      rw [ho a (by omega)]
      simp [read_write_other _ _ _ _ (show a ≠ s.wc.toNat by omega)]

end Sys2Proof.Machine
end

