-- ==== Sys2Proof/Laws/Fetch.lean ====
section
/-! SUPPORT. What taking a token can do, and what one step of the engine and of the host can do. -/

namespace Sys2Proof.Machine

/-- What `readShort` reads when it answers. -/
theorem readShort_eq_ok {ε σ : Type} {bit : σ → Reading ε σ Bool} {byte : σ → Reading ε σ Byte} {s t : σ} {i : Instr} :
    readShort bit byte s = .ok i t ↔
      ∃ a s1 b s2 v, bit s = .ok a s1 ∧ bit s1 = .ok b s2 ∧ byte s2 = .ok v t ∧ i = .scopy a b v := by
  simp only [readShort, andThen_eq_ok, Reading.ok.injEq]
  constructor
  · rintro ⟨a, s1, h1, b, s2, h2, v, s3, h3, h4, rfl⟩
    exact ⟨a, s1, b, s2, v, h1, h2, h3, h4.symm⟩
  · rintro ⟨a, s1, b, s2, v, h1, h2, h3, h4⟩
    exact ⟨a, s1, h1, b, s2, h2, v, t, h3, h4.symm, rfl⟩

/-- What `readLong` reads when it answers: the three rows of the long form (30_encoding.md R105). -/
theorem readLong_eq_ok {ε σ : Type} {byte : σ → Reading ε σ Byte} {s t : σ} {i : Instr} :
    readLong byte s = .ok i t ↔
      ∃ lo s1 hi s2, byte s = .ok lo s1 ∧ byte s1 = .ok hi s2 ∧
        ((isEscape hi = false ∧ s2 = t ∧ i = .lcopy lo hi) ∨
         (isEscape hi = true ∧ ∃ n, byte s2 = .ok n t ∧
            ((n = 0#8 ∧ i = .eos lo hi) ∨ (n ≠ 0#8 ∧ i = .xcopy lo hi n)))) := by
  simp only [readLong, andThen_eq_ok]
  constructor
  · rintro ⟨lo, s1, h1, hi, s2, h2, h⟩
    refine ⟨lo, s1, hi, s2, h1, h2, ?_⟩
    cases he : isEscape hi with
    | false =>
      rw [he] at h
      simp only [Bool.false_eq_true, if_false, Reading.ok.injEq] at h
      exact .inl ⟨rfl, h.2, h.1.symm⟩
    | true =>
      rw [he, if_pos rfl, andThen_eq_ok] at h
      obtain ⟨n, s3, h3, h4⟩ := h
      refine .inr ⟨rfl, n, ?_⟩
      by_cases hn : n = 0#8
      · rw [if_pos hn] at h4; cases h4; exact ⟨h3, .inl ⟨hn, rfl⟩⟩
      · rw [if_neg hn] at h4; cases h4; exact ⟨h3, .inr ⟨hn, rfl⟩⟩
  · rintro ⟨lo, s1, hi, s2, h1, h2, h⟩
    refine ⟨lo, s1, h1, hi, s2, h2, ?_⟩
    rcases h with ⟨he, rfl, rfl⟩ | ⟨he, n, h3, h⟩
    · rw [he]; rfl
    · rw [he, if_pos rfl, andThen_eq_ok]
      refine ⟨n, t, h3, ?_⟩
      rcases h with ⟨hn, rfl⟩ | ⟨hn, rfl⟩
      · rw [if_pos hn]
      · rw [if_neg hn]

/-- What `readToken` reads when it answers (30_encoding.md R99, R105). -/
theorem readToken_eq_ok {ε σ : Type} {bit : σ → Reading ε σ Bool} {byte : σ → Reading ε σ Byte} {s t : σ} {i : Instr} :
    readToken bit byte s = .ok i t ↔
      (∃ s1 v, bit s = .ok true s1 ∧ byte s1 = .ok v t ∧ i = .lit v) ∨
      (∃ s1 s2, bit s = .ok false s1 ∧ bit s1 = .ok false s2 ∧ readShort bit byte s2 = .ok i t) ∨
      (∃ s1 s2, bit s = .ok false s1 ∧ bit s1 = .ok true s2 ∧ readLong byte s2 = .ok i t) := by
  simp only [readToken, andThen_eq_ok]
  constructor
  · rintro ⟨first, s1, h1, h⟩
    cases first with
    | true =>
      rw [if_pos rfl, andThen_eq_ok] at h
      obtain ⟨v, s2, h2, h3⟩ := h
      cases h3
      exact .inl ⟨s1, v, h1, h2, rfl⟩
    | false =>
      rw [if_neg (by decide), andThen_eq_ok] at h
      obtain ⟨second, s2, h2, h3⟩ := h
      cases second with
      | true => exact .inr (.inr ⟨s1, s2, h1, h2, by simpa using h3⟩)
      | false => exact .inr (.inl ⟨s1, s2, h1, h2, by simpa using h3⟩)
  · rintro (⟨s1, v, h1, h2, rfl⟩ | ⟨s1, s2, h1, h2, h3⟩ | ⟨s1, s2, h1, h2, h3⟩)
    · exact ⟨true, s1, h1, by rw [if_pos rfl, andThen_eq_ok]; exact ⟨v, t, h2, rfl⟩⟩
    · exact ⟨false, s1, h1, by rw [if_neg (by decide), andThen_eq_ok]; exact ⟨false, s2, h2, by simpa using h3⟩⟩
    · exact ⟨false, s1, h1, by rw [if_neg (by decide), andThen_eq_ok]; exact ⟨true, s2, h2, by simpa using h3⟩⟩

/-- If each of the two reading operations keeps `P` when it answers and gives `Q` when it stops, then so does the reading of
a token. -/
theorem readToken_invariant {ε σ : Type} {bit : σ → Reading ε σ Bool} {byte : σ → Reading ε σ Byte}
    (P : σ → Prop) (Q : ε → σ → Prop)
    (hbit : ∀ s, P s → (∀ a t, bit s = .ok a t → P t) ∧ ∀ e t, bit s = .stop e t → Q e t)
    (hbyte : ∀ s, P s → (∀ a t, byte s = .ok a t → P t) ∧ ∀ e t, byte s = .stop e t → Q e t)
    {s : σ} (hs : P s) :
    (∀ i t, readToken bit byte s = .ok i t → P t) ∧ ∀ e t, readToken bit byte s = .stop e t → Q e t := by
  have bind : ∀ {α β : Type} (r : Reading ε σ α) (f : α → σ → Reading ε σ β),
      ((∀ a t, r = .ok a t → P t) ∧ ∀ e t, r = .stop e t → Q e t) →
      (∀ a t, P t → (∀ b u, f a t = .ok b u → P u) ∧ ∀ e u, f a t = .stop e u → Q e u) →
      (∀ b u, r.andThen f = .ok b u → P u) ∧ ∀ e u, r.andThen f = .stop e u → Q e u := by
    intro α β r f hr hf
    cases r with
    | ok a t => exact hf a t (hr.1 a t rfl)
    | stop e t => exact ⟨fun b u h => by simp at h, fun e' u h => by
        simp only [andThen_stop, Reading.stop.injEq] at h; exact h.1 ▸ h.2 ▸ hr.2 e t rfl⟩
  have done : ∀ {α : Type} (a : α) (t : σ), P t →
      (∀ b u, (Reading.ok a t : Reading ε σ α) = .ok b u → P u) ∧
      ∀ e u, (Reading.ok a t : Reading ε σ α) = .stop e u → Q e u := by
    intro α a t ht
    exact ⟨fun b u h => by cases h; exact ht, fun e u h => by cases h⟩
  unfold readToken
  refine bind _ _ (hbit s hs) fun first s1 h1 => ?_
  split
  · exact bind _ _ (hbyte s1 h1) fun v s2 h2 => done _ _ h2
  · refine bind _ _ (hbit s1 h1) fun second s2 h2 => ?_
    split
    · unfold readLong
      refine bind _ _ (hbyte s2 h2) fun lo s3 h3 => bind _ _ (hbyte s3 h3) fun hi s4 h4 => ?_
      split
      · refine bind _ _ (hbyte s4 h4) fun n s5 h5 => ?_
        split
        · exact done _ _ h5
        · exact done _ _ h5
      · exact done _ _ h4
    · unfold readShort
      exact bind _ _ (hbit s2 h2) fun a s3 h3 => bind _ _ (hbit s3 h3) fun b s4 h4 =>
        bind _ _ (hbyte s4 h4) fun v s5 h5 => done _ _ h5

/-- Two readings of a token from related states over related operations: both answer the same instruction in related
states, or both stop. -/
theorem readToken_related {ε ε' σ τ : Type} (R : σ → τ → Prop) (Q : ε → σ → ε' → τ → Prop)
    {bit : σ → Reading ε σ Bool} {byte : σ → Reading ε σ Byte}
    {bit' : τ → Reading ε' τ Bool} {byte' : τ → Reading ε' τ Byte}
    (hbit : ∀ s t, R s t → (∃ a u v, bit s = .ok a u ∧ bit' t = .ok a v ∧ R u v) ∨
      ∃ e e' u v, bit s = .stop e u ∧ bit' t = .stop e' v ∧ Q e u e' v)
    (hbyte : ∀ s t, R s t → (∃ a u v, byte s = .ok a u ∧ byte' t = .ok a v ∧ R u v) ∨
      ∃ e e' u v, byte s = .stop e u ∧ byte' t = .stop e' v ∧ Q e u e' v)
    {s : σ} {t : τ} (hst : R s t) :
    (∃ i u v, readToken bit byte s = .ok i u ∧ readToken bit' byte' t = .ok i v ∧ R u v) ∨
      ∃ e e' u v, readToken bit byte s = .stop e u ∧ readToken bit' byte' t = .stop e' v ∧ Q e u e' v := by
  have bind : ∀ {α β : Type} (r : Reading ε σ α) (r' : Reading ε' τ α) (f : α → σ → Reading ε σ β)
      (f' : α → τ → Reading ε' τ β),
      ((∃ a u v, r = .ok a u ∧ r' = .ok a v ∧ R u v) ∨ ∃ e e' u v, r = .stop e u ∧ r' = .stop e' v ∧ Q e u e' v) →
      (∀ a u v, R u v → (∃ b x y, f a u = .ok b x ∧ f' a v = .ok b y ∧ R x y) ∨
        ∃ e e' x y, f a u = .stop e x ∧ f' a v = .stop e' y ∧ Q e x e' y) →
      (∃ b u v, r.andThen f = .ok b u ∧ r'.andThen f' = .ok b v ∧ R u v) ∨
        ∃ e e' u v, r.andThen f = .stop e u ∧ r'.andThen f' = .stop e' v ∧ Q e u e' v := by
    intro α β r r' f f' hr hf
    rcases hr with ⟨a, u, v, rfl, rfl, h⟩ | ⟨e, e', u, v, rfl, rfl, h⟩
    · exact hf a u v h
    · exact .inr ⟨e, e', u, v, rfl, rfl, h⟩
  have done : ∀ {α : Type} (a : α) (u : σ) (v : τ), R u v →
      (∃ b x y, (Reading.ok a u : Reading ε σ α) = .ok b x ∧ (Reading.ok a v : Reading ε' τ α) = .ok b y ∧ R x y) ∨
        ∃ e e' x y, (Reading.ok a u : Reading ε σ α) = .stop e x ∧ (Reading.ok a v : Reading ε' τ α) = .stop e' y ∧
          Q e x e' y :=
    fun a u v h => .inl ⟨a, u, v, rfl, rfl, h⟩
  unfold readToken
  refine bind _ _ _ _ (hbit s t hst) fun first s1 t1 h1 => ?_
  split
  · exact bind _ _ _ _ (hbyte s1 t1 h1) fun v s2 t2 h2 => done _ _ _ h2
  · refine bind _ _ _ _ (hbit s1 t1 h1) fun second s2 t2 h2 => ?_
    split
    · unfold readLong
      refine bind _ _ _ _ (hbyte s2 t2 h2) fun lo s3 t3 h3 =>
        bind _ _ _ _ (hbyte s3 t3 h3) fun hi s4 t4 h4 => ?_
      split
      · refine bind _ _ _ _ (hbyte s4 t4 h4) fun n s5 t5 h5 => ?_
        split
        · exact done _ _ _ h5
        · exact done _ _ _ h5
      · exact done _ _ _ h4
    · unfold readShort
      exact bind _ _ _ _ (hbit s2 t2 h2) fun a s3 t3 h3 => bind _ _ _ _ (hbit s3 t3 h3) fun b s4 t4 h4 =>
        bind _ _ _ _ (hbyte s4 t4 h4) fun v s5 t5 h5 => done _ _ _ h5

/-- Two states that differ at most in the bit cursor and `SP`. -/
def CursorOnly (s t : State) : Prop :=
  t = { s with window := t.window, count := t.count, sp := t.sp, cursorLoaded := t.cursorLoaded }

theorem CursorOnly.update {s t : State} (h : CursorOnly s t) (w : Marker) (c : BitVec 5) (p : Word) (l : Bool) :
    CursorOnly s { t with window := w, count := c, sp := p, cursorLoaded := l } := by
  unfold CursorOnly at h ⊢
  conv_lhs => rw [h]

/-- Taking a token changes the bit cursor and `SP` alone, and stops for missing source bytes alone (41_token_decode.md
R140). -/
theorem fetchToken_frame (s : State) :
    (∀ i t, fetchToken s = .ok i t → CursorOnly s t) ∧
    ∀ r t, fetchToken s = .stop r t → r = ⟨.sourceTruncated, 0#32⟩ ∧ CursorOnly s t := by
  refine readToken_invariant (CursorOnly s) (fun (r : Raise) t => r = ⟨.sourceTruncated, 0#32⟩ ∧ CursorOnly s t)
    ?_ ?_ (show CursorOnly s s from rfl)
  · intro u hu
    rcases nextBit_cases u with ⟨_, e⟩ | ⟨_, _, e⟩ | ⟨_, _, e⟩ <;> rw [e]
    · exact ⟨fun x t h => by cases h; exact hu.update _ _ _ _, fun r t h => by cases h⟩
    · exact ⟨fun x t h => by cases h; exact hu.update _ _ _ _, fun r t h => by cases h⟩
    · exact ⟨fun x t h => (by cases h), fun r t h => by cases h; exact ⟨rfl, hu.update _ _ _ _⟩⟩
  · intro u hu
    rcases srcByte_cases u with ⟨_, e⟩ | ⟨_, e⟩ <;> rw [e]
    · exact ⟨fun x t h => by cases h; exact hu.update _ _ _ _, fun r t h => by cases h⟩
    · exact ⟨fun x t h => (by cases h), fun r t h => by cases h; exact ⟨rfl, hu⟩⟩

/-- What one step of the engine can do (43_block_chainer.md R172). -/
theorem engineStep_cases (s : State) :
    (s.engine ≠ .busy ∧ engineStep s = .next s) ∨
    (s.engine = .busy ∧ s.phase = .blockBegin ∧ engineStep s = settle (blockBegin s)) ∨
    (s.engine = .busy ∧ s.phase = .token ∧ engineStep s = tokenStep s) := by
  unfold engineStep
  by_cases h : s.engine = .busy
  · rw [if_pos h]
    cases hp : s.phase with
    | blockBegin => exact .inr (.inl ⟨h, rfl, rfl⟩)
    | token => exact .inr (.inr ⟨h, rfl, rfl⟩)
  · exact .inl ⟨h, by rw [if_neg h]⟩

/-- What TokenStep can do (41_token_decode.md R140). -/
theorem tokenStep_cases (s : State) :
    (∃ i t, fetchToken s = .ok i t ∧ tokenStep s = exec i t) ∨
    (∃ r t, fetchToken s = .stop r t ∧ tokenStep s = .next (t.enterFault r)) := by
  unfold tokenStep
  cases h : fetchToken s with
  | ok i t => exact .inl ⟨i, t, rfl, rfl⟩
  | stop r t => exact .inr ⟨r, t, rfl, rfl⟩

/-- What a step of the machine can do: the engine's, or the host's next move. -/
theorem step_cases (s : State) :
    (s.hostMoves = [] ∧ machineStep s = engineStep s) ∨
    ∃ m rest, s.hostMoves = m :: rest ∧ machineStep s = hostStep m (s.dropMove rest) := by
  unfold machineStep
  cases h : s.hostMoves with
  | nil => exact .inl ⟨rfl, rfl⟩
  | cons m rest => exact .inr ⟨m, rest, rfl, rfl⟩

end Sys2Proof.Machine
end

