-- ==== Sys2Proof/Laws/PerInstr.lean ====
section
/-! SUPPORT. Statements about every instruction as syntax, one lemma per constructor. -/

namespace Sys2Proof.Laws

namespace TableWidth

/-- The number of bits of an instruction's words: its control bits plus 8 per raw byte, or the 32 bits of `CMD`
(30_encoding.md R96, R105). -/
def bits : Words → Nat
  | .token spelling => spelling.control.length + 8 * spelling.raw.length
  | .command _ => 32

/-- The "width" of the instruction's row of spec/opcode_table.json. -/
def row : Instr → Nat
  | .lit _ => 9
  | .scopy _ _ _ => 12
  | .lcopy _ _ => 18
  | .xcopy _ _ _ => 26
  | .eos _ _ => 26
  | .start => 32

/-- An instruction is encoded in as many bits as its row has (30_encoding.md R105). -/
def Statement (i : Instr) : Prop := bits (encode i) = row i

theorem lit (v : Byte) : Statement (.lit v) := rfl
theorem scopy (a b : Bool) (v : Byte) : Statement (.scopy a b v) := rfl
theorem lcopy (lo hi : Byte) : Statement (.lcopy lo hi) := rfl
theorem xcopy (lo hi n : Byte) : Statement (.xcopy lo hi n) := rfl
theorem eos (lo hi : Byte) : Statement (.eos lo hi) := rfl
theorem start : Statement .start := rfl

end TableWidth

end Sys2Proof.Laws
end

