-- ==== Sys2Proof/Laws/Registers.lean ====
section
/-! SUPPORT. The register map, number by number, and what a host read or write can do. -/

namespace Sys2Proof.Machine

/-- `ZLIST` as registers 16 to 48 (10_state.md R43). -/
theorem regView_zlist (s : State) (n : BitVec 6) (h : 16 ≤ n.toNat) (h' : n.toNat ≤ 48) :
    s.regView n = s.zslot (n.toNat - 16) := by
  rw [State.regView, if_neg (by omega), if_pos h']

/-- The numbers above `ZLIST` are unassigned (10_state.md R44). -/
theorem regView_high (s : State) (n : BitVec 6) (h : 49 ≤ n.toNat) : s.regView n = 0#32 := by
  rw [State.regView, if_neg (by omega), if_neg (by omega)]

/-- The numbers below `ZLIST` (10_state.md R30). -/
theorem regView_low (s : State) (n : BitVec 6) {k : Nat} (h : n.toNat = k) (hk : k < 16) :
    s.regView n = s.lowView k := by
  rw [State.regView, if_pos (by omega), h]

/-- A host read changes nothing but the host's data and the count of free values (70_reset_and_hazards.md R246). -/
theorem readRegister_cases (n : BitVec 6) (s : State) :
    (∃ v, s.unspecifiedRead n = some v ∧ readRegister n s = s.deliverFree v) ∨
    (s.unspecifiedRead n = none ∧ readRegister n s = s.deliver (s.regView n)) := by
  unfold readRegister
  cases h : s.unspecifiedRead n with
  | some v => exact .inl ⟨v, rfl, rfl⟩
  | none => exact .inr ⟨rfl, rfl⟩

/-- A host write of a register changes nothing but `SRC_LEN` and `ZLIST`, and these only in `IDLE` and `DONE`. -/
theorem writeRegister_frame (n : BitVec 6) (v : Word) (s : State) :
    writeRegister n v s =
      { s with srcLen := (writeRegister n v s).srcLen, zlist := (writeRegister n v s).zlist } ∧
    ((s.engine = .busy ∨ s.engine = .fault) → writeRegister n v s = s) := by
  constructor
  · unfold writeRegister
    split
    · unfold State.storeRegister
      split
      · rfl
      · split
        · rfl
        · rfl
    · rfl
  · rintro (h | h) <;> simp [writeRegister, State.acceptsWrites, h]

end Sys2Proof.Machine
end

