-- ==== Sys2Proof/Tests/Slice0.lean ====
section
/-! SUPPORT. Tests: ill-formed terms refused, hand-written words decoded, one step per instruction from the spec's vectors
(95_test_vectors.md), and for every statement with hypotheses a witness that meets them. -/

namespace Sys2Proof.Tests

open Sys2Proof Sys2Proof.Machine

/-! ## Well-formedness -/

theorem test_lcopy_with_escape_nibble_is_ill_formed : (Instr.lcopy 0x34#8 0x10#8).wellFormed = false := by decide
theorem test_xcopy_without_escape_nibble_is_ill_formed : (Instr.xcopy 0x34#8 0x12#8 0x09#8).wellFormed = false := by decide
theorem test_xcopy_with_zero_length_byte_is_ill_formed : (Instr.xcopy 0x34#8 0x10#8 0x00#8).wellFormed = false := by decide
theorem test_eos_without_escape_nibble_is_ill_formed : (Instr.eos 0x00#8 0x01#8).wellFormed = false := by decide

/-! ## Decoding, from the bits of 30_encoding.md R92 to R96 and the T-FIELDS table -/

/-- R92: control bit 1, raw byte 41. -/
theorem test_decode_lit : decode (.token ⟨[true], [0x41#8]⟩) = .ok (.lit 0x41#8) := by decide
/-- R93: control bits 0 0 a b with a = 1, b = 0, raw byte FB. -/
theorem test_decode_scopy :
    decode (.token ⟨[false, false, true, false], [0xFB#8]⟩) = .ok (.scopy true false 0xFB#8) := by decide
/-- R94: control bits 0 1, raw bytes 34 12 with `hi[3:0]` = 2. -/
theorem test_decode_lcopy : decode (.token ⟨[false, true], [0x34#8, 0x12#8]⟩) = .ok (.lcopy 0x34#8 0x12#8) := by decide
/-- R95: control bits 0 1, raw bytes FE F0 09. -/
theorem test_decode_xcopy :
    decode (.token ⟨[false, true], [0xFE#8, 0xF0#8, 0x09#8]⟩) = .ok (.xcopy 0xFE#8 0xF0#8 0x09#8) := by decide
/-- R95: control bits 0 1, raw bytes AB C0 00. -/
theorem test_decode_eos :
    decode (.token ⟨[false, true], [0xAB#8, 0xC0#8, 0x00#8]⟩) = .ok (.eos 0xAB#8 0xC0#8) := by decide
/-- 10_state.md R31. -/
theorem test_decode_start : decode (.command 1#32) = .ok .start := by decide
theorem test_decode_refuses_other_commands : decode (.command 2#32) = .error .noSuchCommand := by decide
theorem test_decode_refuses_missing_bits : decode (.token ⟨[false], []⟩) = .error .controlBitMissing := by decide
theorem test_decode_refuses_missing_bytes : decode (.token ⟨[false, true], [0x34#8]⟩) = .error .rawByteMissing := by decide
theorem test_decode_refuses_leftovers : decode (.token ⟨[true], [0x41#8, 0x42#8]⟩) = .error .materialLeft := by decide

/-- V1's bytes, written out in 95_test_vectors.md, decode to V1's tokens. -/
theorem test_decode_v1 :
    decodeBlock [0x41, 0x00, 0x41, 0xFF, 0x00, 0x00, 0x00] =
      .ok [.lit 0x41, .scopy false false 0xFF, .eos 0 0] ⟨0, 9, []⟩ := by decide
/-- V1's tokens pack to V1's bytes. -/
theorem test_pack_v1 :
    packBlock [.lit 0x41, .scopy false false 0xFF, .eos 0 0] = [0x41, 0x00, 0x41, 0xFF, 0x00, 0x00, 0x00] := by decide

/-- The reference decoder on V1's tokens gives V1's output, and on the example of 42_copy_engine.md R162 that rule's. -/
theorem test_expand_v1 : expand [] [.lit 0x41, .scopy false false 0xFF, .eos 0 0] = [0x41#8, 0x41, 0x41, 0x41] := by decide
theorem test_expand_overlap : expandToken [0x61#8, 0x62] (.xcopy 0xFE#8 0xF0#8 0x09#8) =
    [0x61, 0x62, 0x61, 0x62, 0x61, 0x62, 0x61, 0x62, 0x61, 0x62, 0x61, 0x62] := by decide

/-! ## Small states -/

/-- `ZLIST` with the given first slots, the rest 0. -/
def slots (first : List Word) : Vector Word 33 := Vector.ofFn fun i => first.getD i.val 0#32

/-- The state after reset with the caps `outCap` and `blockCap`, and V1 (95_test_vectors.md) loaded by the host. -/
def loaded (outCap blockCap : Nat) : State :=
  { State.resetFor ⟨outCap, blockCap⟩ with
    srcLen := 7, zlist := slots [7]
    src := Memory.writeAll [] 0 [0x41, 0x00, 0x41, 0xFF, 0x00, 0x00, 0x00] }

/-- V1 after its step 1: the next token is `LIT 'A'`. -/
def beforeLit (outCap blockCap : Nat) : State :=
  { loaded outCap blockCap with
    window := 0x0041, count := 16, sp := 2, blkSrcLimit := 7, phase := .token, engine := .busy, cursorLoaded := true }

/-- V1 after its step 2: the next token is `SCOPY -1, 3`. -/
def beforeCopy (outCap blockCap : Nat) : State :=
  { beforeLit outCap blockCap with window := 0x0020, count := 15, sp := 3, wc := 1, out := [(0, 0x41)] }

/-- V1 after its step 3: the next token is `EOS`. -/
def beforeEos : State :=
  { beforeLit 8 8 with
    window := 0x0002, count := 11, sp := 4, wc := 4, out := [(0, 0x41), (1, 0x41), (2, 0x41), (3, 0x41)] }

/-- V1 after its step 4: the list is exhausted. -/
def beforeDone : State := { beforeEos with window := 0, count := 9, sp := 7, zidx := 1, phase := .blockBegin }

/-- V1 after its step 5. -/
def afterV1 : State := { beforeDone with engine := .done }

/-- A state in `FAULT`. -/
def faulted : State := (beforeLit 8 8).enterFault ⟨.outputOverflow, 0#32⟩

/-- The next control bit, a literal's, is the last one of its marker word (the situation of 95_test_vectors.md V5). -/
def lastBit : State := { beforeLit 8 8 with window := 1, count := 1 }

/-- `s` with the host's moves `moves` to come. -/
def scripted (s : State) (moves : List HostMove) : State := { s with hostMoves := moves }

/-- Whether an outcome is a next state with the property `p`. -/
def reaches (o : Host.Outcome State Fault Refusal) (p : State → Bool) : Bool :=
  match o with
  | .next t => p t
  | _ => false

/-! ## One step per instruction -/

/-- V1 step 2; the example of 41_token_decode.md R141. -/
theorem test_lit_step : reaches (step (beforeLit 8 8)) (fun t => t.out == [(0, 0x41#8)] && t.wc == 1 && t.sp == 3 &&
    t.window == 0x0020#16 && t.count == 15#5 && t.engine == .busy) = true := by decide
/-- F8: a literal at the buffer's end; its raw byte is consumed. -/
theorem test_lit_step_overflows : reaches (step { beforeCopy 1 1 with window := 1, blkOutBase := 1 }) (fun t =>
    t.engine == .fault && t.faultCause == .outputOverflow && t.faultInfo == 1 && t.sp == 4 && t.wc == 1) = true := by
  decide
/-- V1 step 3: an overlapping copy. -/
theorem test_scopy_step : reaches (step (beforeCopy 8 8)) (fun t =>
    t.out == [(0, 0x41#8), (1, 0x41#8), (2, 0x41#8), (3, 0x41#8)] && t.wc == 4 && t.sp == 4 && t.window == 2#16 &&
    t.count == 11#5) = true := by decide
/-- F1: a copy before any output; FAULT_INFO is the offset's pattern. -/
theorem test_scopy_step_faults : reaches (step { beforeLit 8 8 with window := 0 }) (fun t =>
    t.faultCause == .invalidBackReference && t.faultInfo == 0xFFFFFF41#32 && t.wc == 0 && t.out == []) = true := by
  decide
/-- The example of 41_token_decode.md R143. -/
theorem test_lcopy_exec :
    reaches (exec (.lcopy 0xFC#8 0xF1#8)
      { beforeLit 16 16 with wc := 4, out := [(0, 0x61), (1, 0x62), (2, 0x63), (3, 0x64)] })
      (fun t => t.out.drop 4 == [(4, 0x61#8), (5, 0x62#8), (6, 0x63#8), (7, 0x64#8)] && t.wc == 8) = true := by decide
/-- 42_copy_engine.md R165: the per-call cap inside a copy leaves the first bytes. -/
theorem test_lcopy_exec_is_cut_short :
    reaches (exec (.lcopy 0xFC#8 0xF1#8)
      { beforeLit 16 6 with wc := 4, out := [(0, 0x61), (1, 0x62), (2, 0x63), (3, 0x64)] })
      (fun t => t.out.drop 4 == [(4, 0x61#8), (5, 0x62#8)] && t.wc == 6 && t.faultInfo == 0 &&
        t.faultCause == .outputOverflow) = true := by decide
/-- The example of 41_token_decode.md R144 and 42_copy_engine.md R162. -/
theorem test_xcopy_exec :
    reaches (exec (.xcopy 0xFE#8 0xF0#8 0x09#8) { beforeLit 16 16 with wc := 2, out := [(0, 0x61), (1, 0x62)] })
      (fun t => t.out.map Prod.snd ==
        [0x61#8, 0x62, 0x61, 0x62, 0x61, 0x62, 0x61, 0x62, 0x61, 0x62, 0x61, 0x62] && t.wc == 12) = true := by decide
/-- V1 step 4. -/
theorem test_eos_step : reaches (step beforeEos) (fun t => t.zidx == 1 && t.phase == .blockBegin && t.sp == 7 &&
    t.window == 0 && t.count == 9#5 && t.engine == .busy) = true := by decide
/-- F4: the listed length is one more than what is consumed. -/
theorem test_eos_step_mismatch : reaches (step { beforeEos with zlist := slots [8] }) (fun t =>
    t.faultCause == .zblockSizeMismatch && t.faultInfo == 7 && t.zidx == 0 && t.statusWord == 0x43#32) = true := by
  decide
/-- The example of 43_block_chainer.md R171: START in `DONE`. -/
theorem test_start_step : reaches (step (scripted afterV1 [.writeReg 0 1])) (fun t => t.engine == .busy && t.wc == 0 &&
    t.sp == 0 && t.zidx == 0 && t.phase == .blockBegin) = true := by decide
/-- H2: START in `FAULT` is ignored. -/
theorem test_start_step_in_fault : reaches (step (scripted faulted [.writeReg 0 1])) (fun t => t == faulted) = true := by
  decide
/-- F9: the reload that the 16th control bit needs finds one byte; `COUNT` 0 is left to be seen. -/
theorem test_reload_fault : reaches (step { lastBit with sp := 6 }) (fun t => t.faultCause == .sourceTruncated &&
    t.faultInfo == 0 && t.count == 0 && t.sp == 6) = true := by decide
/-- V1 step 1. -/
theorem test_block_begin_step : reaches (step (loaded 8 8).beginChain) (fun t => t == beforeLit 8 8) = true := by decide
/-- V1 step 5. -/
theorem test_chain_ends : reaches (step beforeDone) (fun t => t == afterV1 && t.statusWord == 2 && t.irq) = true := by
  decide

/-! ## The interface of the opcode table -/

/-- The image of `LIT` with `v` = 41 runs as the first instruction after reset. -/
theorem test_withFetchWord_token :
    reaches (step (State.reset.withFetchWord 16 0x083)) (fun t => t.out == [(0, 0x41#8)] && t.engine == .busy) = true := by
  decide
theorem test_withFetchWord_command :
    reaches (step (State.reset.withFetchWord 32 1)) (fun t => t == State.reset.beginChain) = true := by decide

/-! ## Witnesses: for every statement with hypotheses, states and operands that meet them (test_witness_<statement>) -/

theorem inv_beforeLit : Invariant (beforeLit 8 8) := by constructor <;> decide
theorem inv_beforeEos : Invariant beforeEos := by constructor <;> decide
theorem inv_beforeDone : Invariant beforeDone := by constructor <;> decide
theorem inv_loaded : Invariant (loaded 8 8) := by constructor <;> decide

theorem inv_afterV1 : Invariant afterV1 := by constructor <;> decide
theorem inv_faulted : Invariant faulted := by constructor <;> decide

theorem test_witness_DecodeOfEncodeIsTheInstruction :
    (Instr.xcopy 0xFE#8 0xF0#8 0x09#8).wellFormed = true ∧
    encode (.xcopy 0xFE#8 0xF0#8 0x09#8) = .token ⟨[false, true], [0xFE#8, 0xF0#8, 0x09#8]⟩ := by decide

/-- The shortest lists; a fetch that answers; a fetch that stops. -/
theorem test_witness_EverySpellingDecodes :
    (4 ≤ [false, true, false, false].length ∧ 3 ≤ [0x00#8, 0xF0#8, 0x00#8].length) ∧
    (∃ t, fetchToken (beforeLit 8 8) = .ok (.lit 0x41#8) t) ∧
    ∃ r t, fetchToken { beforeLit 8 8 with sp := 7 } = .stop r t := ⟨by decide, ⟨_, rfl⟩, _, _, rfl⟩

/-- One image for each row. -/
theorem test_witness_TokenImageSelectsItsRow :
    (0x083#26 &&& 0x1#26 = 0x1#26) ∧ (0xFB4#26 &&& 0x3#26 = 0x0#26) ∧
    (0x048D2#26 &&& 0x3#26 = 0x2#26 ∧ (0x048D2#26).extractLsb' 10 4 ≠ 0#4) ∧
    (0x027C3FA#26 &&& 0x3C03#26 = 0x2#26 ∧ (0x027C3FA#26).extractLsb' 18 8 ≠ 0#8) ∧
    (0x00302AE#26 &&& 0x3FC3C03#26 = 0x2#26) := by decide

theorem test_witness_PackedBlockDecodesToItsTokens :
    (∀ i ∈ [Instr.lit 0x41, .scopy false false 0xFF], i.wellFormed = true ∧ i ≠ .start ∧ ∀ lo hi, i ≠ .eos lo hi) ∧
    isEscape 0x00#8 = true := by
  refine ⟨?_, by decide⟩
  intro i hi
  simp only [List.mem_cons, List.not_mem_nil, or_false] at hi
  rcases hi with rfl | rfl <;> simp [Instr.wellFormed]

theorem test_witness_FetchRefinesTheStreamDecoder :
    (∃ i rest, decodeNext (beforeLit 8 8).stream = .ok i rest) ∧
    ∃ e rest, decodeNext { beforeLit 8 8 with sp := 7 : State }.stream = .stop e rest := ⟨⟨_, _, rfl⟩, _, _, rfl⟩

theorem test_witness_OperandsAreThoseOfTheTable : isEscape 0x01#8 = false ∧ isEscape 0xF0#8 = true := by decide

/-- Field values at the ends of their ranges, a fetched literal, and an `EOS`, a literal and a copy that complete. -/
theorem test_witness_NoTokenExceedsTheLimits :
    (isEscape 0x01#8 = false ∧ isEscape 0x0F#8 = false) ∧ (1#8 ≠ 0#8 ∧ 255#8 ≠ 0#8) ∧
    (∃ m, fetchToken (beforeLit 8 8) = .ok (.lit 0x41#8) m) ∧
    ((Instr.eos 0x00#8 0x00#8).wellFormed = true ∧ Instr.eos 0x00#8 0x00#8 ≠ .start ∧
      reaches (exec (.eos 0x00#8 0x00#8) { beforeEos with sp := 7 }) (fun t => t.engine == .busy) = true) ∧
    ((Instr.lit 0x41#8).wellFormed = true ∧ Instr.lit 0x41#8 ≠ .start ∧
      reaches (exec (.lit 0x41#8) (beforeCopy 2 2)) (fun t => t.engine == .busy) = true) ∧
    (Instr.xcopy 0xFF#8 0xF0#8 0x01#8).wellFormed = true ∧ Instr.xcopy 0xFF#8 0xF0#8 0x01#8 ≠ .start ∧
      (beforeCopy 3 3).params.legal ∧ (beforeCopy 3 3).engine = .busy ∧
      reaches (exec (.xcopy 0xFF#8 0xF0#8 0x01#8) (beforeCopy 3 3)) (fun t => t.engine == .busy) = true :=
  ⟨by decide, by decide, ⟨_, rfl⟩, by decide, by decide, by decide⟩

theorem test_witness_RedundantSpellingsAgree :
    (true || false) = true ∧ isEscape 0x01#8 = false ∧
    ((Instr.xcopy 0xFF#8 0xE0#8 0x02#8).wellFormed = true ∧ copyNumbers (.xcopy 0xFF#8 0xE0#8 0x02#8) = some (257, 3) ∧
      256 < 257) ∧
    (Instr.xcopy 0xFF#8 0xF0#8 0x01#8).wellFormed = true ∧ copyNumbers (.xcopy 0xFF#8 0xF0#8 0x01#8) = some (1, 2) := by
  decide

/-- Each clause at its boundary: the per-call cap just reached, the buffer's end just reached, one byte of room. -/
theorem test_witness_LitEmitsItsByteOrOverflows :
    (let s := beforeCopy 2 1
     s.params.legal ∧ s.blkOutBase.toNat + s.params.blockCap ≤ s.wc.toNat) ∧
    (let s : State := { beforeCopy 1 1 with blkOutBase := 1 }
     s.params.legal ∧ s.wc.toNat < s.blkOutBase.toNat + s.params.blockCap ∧ s.params.outCap ≤ s.wc.toNat) ∧
    (let s := beforeCopy 2 2
     s.params.legal ∧ s.wc.toNat < s.blkOutBase.toNat + s.params.blockCap ∧ s.wc.toNat < s.params.outCap) := by decide

/-- The premises and each branch: with and without a reload, truncated or not, over a cap or not. -/
theorem test_witness_LiteralStep :
    (let s := beforeLit 8 8
     s.hostMoves = [] ∧ s.engine = .busy ∧ s.phase = .token ∧ 1 ≤ s.count.toNat ∧ s.count.toNat ≤ 16 ∧
       s.window.getLsbD 0 = true ∧ s.count ≠ 1#5 ∧ s.sp.toNat < s.blkSrcLimit.toNat ∧
       s.wc.toNat < s.blkOutBase.toNat + s.params.blockCap ∧ s.wc.toNat < s.params.outCap) ∧
    (let s := lastBit
     s.hostMoves = [] ∧ s.engine = .busy ∧ s.phase = .token ∧ s.window.getLsbD 0 = true ∧ s.count = 1#5 ∧
       s.sp.toNat + 2 ≤ s.blkSrcLimit.toNat) ∧
    (let s : State := { lastBit with sp := 6 }
     s.window.getLsbD 0 = true ∧ s.count = 1#5 ∧ s.blkSrcLimit.toNat < s.sp.toNat + 2) ∧
    (let s : State := { beforeLit 8 8 with sp := 7 }
     s.window.getLsbD 0 = true ∧ s.count ≠ 1#5 ∧ s.blkSrcLimit.toNat ≤ s.sp.toNat) ∧
    (let s : State := { beforeCopy 2 1 with window := 1 }
     s.window.getLsbD 0 = true ∧ s.sp.toNat < s.blkSrcLimit.toNat ∧
       s.blkOutBase.toNat + s.params.blockCap ≤ s.wc.toNat) ∧
    (let s : State := { beforeCopy 1 1 with window := 1, blkOutBase := 1 }
     s.window.getLsbD 0 = true ∧ s.sp.toNat < s.blkSrcLimit.toNat ∧
       s.wc.toNat < s.blkOutBase.toNat + s.params.blockCap ∧ s.params.outCap ≤ s.wc.toNat) := by decide

/-- V1's copy, a long copy and an extended copy, each with exactly the distance and the room it needs. -/
theorem test_witness_CopyTokensRepeatThePattern :
    (let s := beforeCopy 4 4
     (Instr.scopy false false 0xFF#8).wellFormed = true ∧ copyNumbers (.scopy false false 0xFF#8) = some (1, 3) ∧
       s.params.legal ∧ 1 ≤ s.wc.toNat ∧ s.wc.toNat + 3 ≤ s.blkOutBase.toNat + s.params.blockCap ∧
       s.wc.toNat + 3 ≤ s.params.outCap) ∧
    (let s := beforeCopy 5 5
     (Instr.lcopy 0xFF#8 0xF1#8).wellFormed = true ∧ copyNumbers (.lcopy 0xFF#8 0xF1#8) = some (1, 4) ∧
       s.params.legal ∧ 1 ≤ s.wc.toNat ∧ s.wc.toNat + 4 ≤ s.blkOutBase.toNat + s.params.blockCap ∧
       s.wc.toNat + 4 ≤ s.params.outCap) ∧
    (let s := beforeCopy 3 3
     (Instr.xcopy 0xFF#8 0xF0#8 0x01#8).wellFormed = true ∧ copyNumbers (.xcopy 0xFF#8 0xF0#8 0x01#8) = some (1, 2) ∧
       s.params.legal ∧ 1 ≤ s.wc.toNat ∧ s.wc.toNat + 2 ≤ s.blkOutBase.toNat + s.params.blockCap ∧
       s.wc.toNat + 2 ≤ s.params.outCap) := by decide

/-- A distance one greater than `WC`, as an instruction and in a step. -/
theorem test_witness_CopyBeforeTheStartFaults :
    let s : State := { beforeCopy 4 4 with src := [(3, 0xFE#8)] }
    (Instr.scopy false false 0xFE#8).wellFormed = true ∧ copyNumbers (.scopy false false 0xFE#8) = some (2, 3) ∧
      s.wc.toNat < 2 ∧ s.hostMoves = [] ∧ s.engine = .busy ∧ s.phase = .token ∧ 1 ≤ s.count.toNat ∧
      s.count.toNat ≤ 16 ∧ ∃ m, fetchToken s = .ok (.scopy false false 0xFE#8) m :=
  ⟨by decide, by decide, by decide, by decide, by decide, by decide, by decide, by decide, _, rfl⟩

/-- Room for two of three bytes under the per-call cap; room for none under the buffer's end. -/
theorem test_witness_CopyCutShortLeavesItsFirstBytes :
    (let s := beforeCopy 8 3
     copyNumbers (.scopy false false 0xFF#8) = some (1, 3) ∧ s.params.legal ∧ 1 ≤ s.wc.toNat ∧
       s.wc.toNat ≤ s.blkOutBase.toNat + s.params.blockCap ∧ s.wc.toNat ≤ s.params.outCap ∧ s.roomLeft < 3 ∧
       s.blkOutBase.toNat + s.params.blockCap ≤ s.params.outCap) ∧
    (let s : State := { beforeCopy 1 1 with blkOutBase := 1 }
     s.params.legal ∧ s.wc.toNat ≤ s.blkOutBase.toNat + s.params.blockCap ∧ s.wc.toNat ≤ s.params.outCap ∧
       s.roomLeft < 3 ∧ ¬ s.blkOutBase.toNat + s.params.blockCap ≤ s.params.outCap) := by decide

/-- The consumed count equal to the listed length, one less than it, and both in a step. -/
theorem test_witness_EosChecksTheConsumedCount :
    (let s : State := { beforeEos with sp := 7 }
     s.sp.toNat = s.blkSrcBase.toNat + (s.zslot s.zidx.toNat).toNat) ∧
    (let s : State := { beforeEos with sp := 6 }
     s.sp.toNat ≠ s.blkSrcBase.toNat + (s.zslot s.zidx.toNat).toNat) ∧
    (Invariant beforeEos ∧ beforeEos.hostMoves = [] ∧ beforeEos.engine = .busy ∧ beforeEos.phase = .token ∧
      reaches (step beforeEos) (fun t => t.phase == .blockBegin && t.engine == .busy) = true) ∧
    (let s : State := { beforeEos with srcLen := 8, zlist := slots [8], blkSrcLimit := 8 }
     Invariant s ∧ s.hostMoves = [] ∧ s.engine = .busy ∧
       reaches (step s) (fun t => t.faultCause == .zblockSizeMismatch) = true) :=
  ⟨by decide, by decide, ⟨inv_beforeEos, by decide⟩, ⟨by constructor <;> decide, by decide⟩⟩

theorem test_witness_StartBeginsAChain :
    (State.reset.engine = .idle ∧ afterV1.engine = .done) ∧ beforeDone.engine = .busy ∧ faulted.engine = .fault := by
  decide

theorem test_witness_StepRunsTheFetchedInstruction :
    ((beforeLit 8 8).hostMoves = [] ∧ (beforeLit 8 8).engine = .busy ∧ (beforeLit 8 8).phase = .token ∧
      ∃ t, fetchToken (beforeLit 8 8) = .ok (.lit 0x41#8) t) ∧
    (∃ r t, fetchToken { beforeLit 8 8 with sp := 7 } = .stop r t) ∧
    (scripted (beforeLit 8 8) [.wait]).hostMoves = [.wait] ∧
    (scripted State.reset [.writeReg 0 1]).hostMoves = [.writeReg 0#6 1#32] ∧ decodeCommand 1#32 = some .start :=
  ⟨⟨rfl, rfl, rfl, _, rfl⟩, ⟨_, _, rfl⟩, rfl, rfl, rfl⟩

theorem test_witness_CommandRegister :
    (scripted State.reset [.writeReg 0 1]).hostMoves = [.writeReg 0#6 1#32] ∧
    ((scripted State.reset [.writeReg 0 2]).hostMoves = [.writeReg 0#6 2#32] ∧ 2#32 ≠ 1#32) ∧
    (scripted State.reset [.readReg 0]).hostMoves = [.readReg 0#6] := by decide

/-- The four clauses, with the listed length at its boundaries: 0, one too many, 1 and 2; and slot 33. -/
theorem test_witness_BlockBeginOpensTheNextBlock :
    (let s := beforeDone
     s.hostMoves = [] ∧ s.engine = .busy ∧ s.phase = .blockBegin ∧ s.zslot s.zidx.toNat = 0#32) ∧
    (let s : State := { (loaded 8 8).beginChain with zidx := 33 }
     s.engine = .busy ∧ s.phase = .blockBegin ∧ s.zidx = 33#6) ∧
    (let s : State := { (loaded 8 8).beginChain with zlist := slots [8] }
     s.zidx ≠ 33#6 ∧ s.zslot s.zidx.toNat ≠ 0#32 ∧
       s.srcLen.toNat < s.blkSrcLimit.toNat + (s.zslot s.zidx.toNat).toNat) ∧
    (let s : State := { (loaded 8 8).beginChain with zlist := slots [1], srcLen := 1 }
     s.zidx ≠ 33#6 ∧ s.zslot s.zidx.toNat = 1#32 ∧ s.blkSrcLimit.toNat + 1 ≤ s.srcLen.toNat) ∧
    (let s : State := { (loaded 8 8).beginChain with zlist := slots [2], srcLen := 2 }
     s.zidx ≠ 33#6 ∧ 2 ≤ (s.zslot s.zidx.toNat).toNat ∧
       s.blkSrcLimit.toNat + (s.zslot s.zidx.toNat).toNat ≤ s.srcLen.toNat) := by decide

/-- A copy step, an `EOS` step, and a literal whose control bit is the last of its marker word. -/
theorem test_witness_TokenStepAccounting :
    (let s := beforeCopy 8 8
     s.hostMoves = [] ∧ s.engine = .busy ∧ s.phase = .token ∧ s.params.legal ∧ 1 ≤ s.count.toNat ∧ s.count.toNat ≤ 16 ∧
       reaches (step s) (fun t => t.engine == .busy) = true) ∧
    (let s := beforeEos
     s.hostMoves = [] ∧ s.engine = .busy ∧ s.phase = .token ∧ s.params.legal ∧ 1 ≤ s.count.toNat ∧ s.count.toNat ≤ 16 ∧
       reaches (step s) (fun t => t.engine == .busy && t.phase == .blockBegin) = true) ∧
    (let s := lastBit
     s.hostMoves = [] ∧ s.engine = .busy ∧ s.phase = .token ∧ s.params.legal ∧ 1 ≤ s.count.toNat ∧ s.count.toNat ≤ 16 ∧
       reaches (step s) (fun t => t.engine == .busy) = true) := by decide

/-- A raw byte missing at the block's end, and a reload with one byte left. -/
theorem test_witness_TruncatedTokenKeepsTheOutput :
    (let s : State := { beforeLit 8 8 with sp := 7 }
     s.hostMoves = [] ∧ s.engine = .busy ∧ s.phase = .token ∧ 1 ≤ s.count.toNat ∧ s.count.toNat ≤ 16 ∧
       s.sp.toNat ≤ s.blkSrcLimit.toNat ∧ s.faultCause = .none ∧
       reaches (step s) (fun t => t.faultCause == .sourceTruncated && t.count != 0) = true) ∧
    (let s : State := { lastBit with sp := 6 }
     s.sp.toNat ≤ s.blkSrcLimit.toNat ∧ s.faultCause = .none ∧
       reaches (step s) (fun t => t.faultCause == .sourceTruncated && t.count == 0) = true) := by decide

/-- SRC with a byte changed just below `SP` and one at the block's limit. -/
theorem test_witness_TokenStepReadsOnlyItsWindow :
    let s := beforeLit 8 8
    let src := Memory.write (Memory.write s.src 1 0xEE) 7 0xEE
    s.engine = .busy ∧ s.phase = .token ∧ src ≠ s.src ∧
      (∀ i, i < 7 → s.sp.toNat ≤ i → State.srcAt { s with src := src } i = s.srcAt i) ∧
      reaches (engineStep s) (fun _ => true) = true := by
  refine ⟨by decide, by decide, by decide, ?_, by decide⟩
  intro i h1 h2
  have h2 : 2 ≤ i := h2
  interval_cases i <;> rfl

theorem test_witness_OutputOnlyGrows_and_EngineWritesNoneOfItsInputs :
    (beforeCopy 8 8).params.legal ∧ reaches (engineStep (beforeCopy 8 8)) (fun t => t.out != (beforeCopy 8 8).out) = true := by
  decide

/-- Every way STATE changes. -/
theorem test_witness_EngineStateTransitions :
    reaches (step (scripted faulted [.reset])) (fun t => t.engine == .idle) = true ∧
    reaches (step (scripted State.reset [.writeReg 0 1])) (fun t => t.engine == .busy) = true ∧
    reaches (step beforeDone) (fun t => t.engine == .done) = true ∧
    reaches (step { beforeLit 8 8 with sp := 7 }) (fun t => t.engine == .fault) = true := by decide

theorem test_witness_FaultIsStickyUntilReset :
    faulted.engine = .fault ∧ reaches (step faulted) (fun t => t == faulted) = true ∧
    reaches (step (scripted faulted [.reset])) (fun t => t.faultCause == .none) = true := by decide

/-- A fault of a token, and one of BlockBegin. -/
theorem test_witness_FaultEntryKeepsTheRest :
    (let s := beforeCopy 2 2
     s.params.legal ∧ s.engine = .busy ∧ reaches (engineStep s) (fun t => t.engine == .fault) = true) ∧
    (let s : State := { (loaded 8 8).beginChain with zlist := slots [8] }
     s.params.legal ∧ s.engine = .busy ∧ s.phase = .blockBegin ∧
       reaches (engineStep s) (fun t => t.engine == .fault) = true) := by decide

/-- A read of OUT at `OUT_CAP`, and a write of SRC in `BUSY`. -/
theorem test_witness_StepStopsOnlyOnTheHost :
    (scripted afterV1 [.readOut 8]).params.outCap ≤ (8#32).toNat ∧
    step (scripted afterV1 [.readOut 8]) = .fault .outIndexAbsent ∧
    step (scripted (beforeLit 8 8) [.writeSrc 0 0]) = .refused .srcWriteWhileBusy := ⟨by decide, rfl, rfl⟩

theorem test_witness_ResetMeetsTheInvariant : (Params.mk 1 1).legal ∧ (Params.mk (2 ^ 32 - 1) (2 ^ 32 - 1)).legal := by decide

/-- States of every kind meet the invariant, and a step answers from them. -/
theorem test_witness_StepKeepsTheInvariant :
    (Invariant (beforeLit 8 8) ∧ Invariant beforeEos ∧ Invariant afterV1 ∧ Invariant faulted) ∧
    reaches (step (beforeLit 8 8)) (fun t => t.wc == 1) = true :=
  ⟨⟨inv_beforeLit, inv_beforeEos, inv_afterV1, inv_faulted⟩, by decide⟩

theorem test_witness_DoneMeansEveryListedBlockWasDecoded :
    Invariant beforeDone ∧ beforeDone.engine = .busy ∧ reaches (engineStep beforeDone) (fun t => t.engine == .done) = true :=
  ⟨inv_beforeDone, by decide⟩

theorem test_witness_EveryChainEnds :
    (Invariant (loaded 8 8) ∧ (loaded 8 8).hostMoves = [] ∧ (loaded 8 8).engine = .idle) ∧
    Invariant afterV1 ∧ afterV1.hostMoves = [] ∧ afterV1.engine = .done := ⟨⟨inv_loaded, rfl, rfl⟩, inv_afterV1, rfl, rfl⟩

theorem test_witness_RunChainAgreesWithTheSteps :
    Invariant beforeDone ∧ beforeDone.hostMoves = [] ∧ beforeDone.engine = .busy ∧ beforeDone.phase = .blockBegin :=
  ⟨inv_beforeDone, rfl, rfl, rfl⟩

/-- The inputs of V1 in a fresh machine, and in one that has just run V1 and holds its stale output and bit cursor; after
one step the chain is inside a decode call. -/
theorem test_witness_ChainDependsOnItsInputsAlone :
    Invariant (loaded 8 8) ∧ Invariant afterV1 ∧ (loaded 8 8).hostMoves = [] ∧ afterV1.hostMoves = [] ∧
      (loaded 8 8).engine = .idle ∧ afterV1.engine = .done ∧ afterV1.zlist = (loaded 8 8).zlist ∧
      afterV1.srcLen = (loaded 8 8).srcLen ∧ afterV1.params = (loaded 8 8).params ∧
      (∀ i, i < (loaded 8 8).srcLen.toNat → afterV1.srcAt i = (loaded 8 8).srcAt i) ∧ afterV1.out ≠ (loaded 8 8).out ∧
      ∃ u, run 1 (loaded 8 8).beginChain = .next u ∧ u.phase = .token :=
  ⟨inv_loaded, inv_afterV1, rfl, rfl, rfl, rfl, rfl, rfl, rfl, fun _ _ => rfl, by decide, _, rfl, rfl⟩

/-- V1's decode call: its three token steps, the first two of which stay inside it. -/
theorem test_witness_DecodeCallProducesItsTokens :
    Invariant (beforeLit 8 8) ∧ (beforeLit 8 8).hostMoves = [] ∧ (beforeLit 8 8).engine = .busy ∧
      (beforeLit 8 8).phase = .token ∧ (beforeLit 8 8).wc = (beforeLit 8 8).blkOutBase ∧
      (∃ t, run 3 (beforeLit 8 8) = .next t ∧ t.engine = .busy ∧ t.phase = .blockBegin) ∧
      ∀ j u, j < 3 → run j (beforeLit 8 8) = .next u → u.phase = .token := by
  refine ⟨inv_beforeLit, rfl, rfl, rfl, rfl, ⟨_, rfl, rfl, rfl⟩, ?_⟩
  intro j u hj h
  interval_cases j <;> (cases h; rfl)

/-- V1's chain: BlockBegin, three tokens, BlockBegin. -/
theorem test_witness_ChainOutputIsTheConcatenation :
    Invariant (loaded 8 8) ∧ (loaded 8 8).hostMoves = [] ∧ (loaded 8 8).engine = .idle ∧
      ∃ t, run 5 (loaded 8 8).beginChain = .next t ∧ t.engine = .done ∧ t.zidx = 1#6 :=
  ⟨inv_loaded, rfl, rfl, _, rfl, rfl, rfl⟩

theorem test_witness_ResetLeavesTheTable : (scripted faulted [.reset]).hostMoves = [.reset] ∧
    (scripted (beforeLit 8 8) [.reset]).hostMoves = [.reset] := by decide

/-- The host's accesses in each STATE, with register numbers at the boundaries of their ranges. -/
theorem test_witness_RegisterWritesByState :
    (scripted State.reset [.writeReg 2 7]).hostMoves = [.writeReg 2#6 7#32] ∧ 2#6 ≠ 0#6 ∧
    State.reset.engine = .idle ∧ (beforeLit 8 8).engine = .busy ∧ faulted.engine = .fault ∧
    (16 ≤ (16#6).toNat ∧ (48#6).toNat ≤ 48) ∧ (15#6).toNat < 16 ∧ 48 < (49#6).toNat := by decide

theorem test_witness_RegisterReadsOutsideBusy :
    (scripted afterV1 [.readReg 8]).hostMoves = [.readReg 8#6] ∧ afterV1.engine ≠ .busy ∧ afterV1.cursorLoaded = true ∧
    (scripted State.reset [.readReg 1]).hostMoves = [.readReg 1#6] ∧ State.reset.engine ≠ .busy ∧ 1#6 ≠ 8#6 ∧ 1#6 ≠ 9#6 := by
  decide

theorem test_witness_RegisterReadsWhileBusy :
    (scripted (beforeLit 8 8) [.readReg 2]).hostMoves = [.readReg 2#6] ∧ (beforeLit 8 8).engine = .busy ∧
    (2 ≤ (2#6).toNat ∧ (13#6).toNat ≤ 13) ∧ (14#6).toNat = 14 ∧ (15#6).toNat = 15 ∧ (16 ≤ (16#6).toNat ∧ (48#6).toNat ≤ 48) ∧
    49 ≤ (49#6).toNat := by decide

/-- A read, and a state for each of the seven example values. -/
theorem test_witness_StatusRegister :
    (scripted (beforeLit 8 8) [.readReg 1]).hostMoves = [.readReg 1#6] ∧
    (State.reset.engine = .idle ∧ State.reset.faultCause = .none) ∧
    ((beforeLit 8 8).engine = .busy ∧ (beforeLit 8 8).faultCause = .none) ∧
    (afterV1.engine = .done ∧ afterV1.faultCause = .none) ∧
    (faulted.engine = .fault ∧ faulted.faultCause = .outputOverflow) ∧
    ∀ c, ((beforeLit 8 8).enterFault ⟨c, 0#32⟩).engine = .fault ∧ ((beforeLit 8 8).enterFault ⟨c, 0#32⟩).faultCause = c :=
  ⟨rfl, ⟨rfl, rfl⟩, ⟨rfl, rfl⟩, ⟨rfl, rfl⟩, ⟨rfl, rfl⟩, fun _ => ⟨rfl, rfl⟩⟩

theorem test_witness_MemoryAccessByState :
    (scripted State.reset [.writeSrc 0 0x41]).hostMoves = [.writeSrc 0#32 0x41#8] ∧ State.reset.engine = .idle ∧
    (scripted afterV1 [.readOut 7]).hostMoves = [.readOut 7#32] ∧ (7#32).toNat < afterV1.params.outCap ∧
    Memory.read? afterV1.out 0 = some 0x41#8 ∧ (beforeLit 8 8).engine = .busy ∧ faulted.engine = .fault := by decide

theorem test_witness_CompletionLine :
    afterV1.engine = .done ∧ afterV1.irq = true ∧ faulted.irq = true ∧ (beforeLit 8 8).irq = false := by decide

end Sys2Proof.Tests
end

/-! ## Steps, by the host's next move -/

section
namespace Sys2Proof.Machine

/-- With no host move to come, the engine steps (43_block_chainer.md R172). -/
theorem step_of_no_move {s : State} (h : s.hostMoves = []) : step s = engineStep s := by
  simp [step, machineStep, h]

/-- The host's next move is made on the state without it. -/
theorem step_of_move {s : State} {m : HostMove} {rest : List HostMove} (h : s.hostMoves = m :: rest) :
    step s = hostStep m (s.dropMove rest) := by
  simp [step, machineStep, h]

/-- The two kinds of a step: the engine's, or the host's next move. -/
theorem step_kinds (s : State) :
    (s.hostMoves = [] ∧ step s = engineStep s) ∨
    ∃ m rest, s.hostMoves = m :: rest ∧ step s = hostStep m (s.dropMove rest) := step_cases s

@[simp] theorem hostStep_readReg (n : BitVec 6) (s : State) :
    hostStep (.readReg n) s = .next (readRegister n s) := rfl
@[simp] theorem hostStep_writeSrc (i : Word) (v : Byte) (s : State) :
    hostStep (.writeSrc i v) s = writeSource i v s := rfl
@[simp] theorem hostStep_readOut (i : Word) (s : State) : hostStep (.readOut i) s = readOutput i s := rfl
@[simp] theorem hostStep_reset (s : State) : hostStep .reset s = .next s.resetInput := rfl
@[simp] theorem hostStep_wait (s : State) : hostStep .wait s = engineStep s := rfl

@[simp] theorem hostStep_writeCmd (v : Word) (s : State) :
    hostStep (.writeReg 0#6 v) s = writeCommand v s := rfl

/-- A write of a register other than `CMD` (10_state.md R30). -/
theorem hostStep_writeReg {n : BitVec 6} (hn : n ≠ 0#6) (v : Word) (s : State) :
    hostStep (.writeReg n v) s = .next (writeRegister n v s) := if_neg hn

/-- The value 1 written to `CMD` is START (10_state.md R31). -/
@[simp] theorem writeCommand_one (s : State) : writeCommand 1#32 s = exec .start s := rfl

/-- Any other value written to `CMD` has no effect (10_state.md R31). -/
theorem writeCommand_other {v : Word} (hv : v ≠ 1#32) (s : State) : writeCommand v s = .next s := by
  simp [writeCommand, decodeCommand, hv]

/-- START (43_block_chainer.md R171) begins a chain in `IDLE` and `DONE`, and has no effect otherwise. -/
theorem exec_start_cases (s : State) :
    ((s.engine = .idle ∨ s.engine = .done) ∧ exec .start s = .next s.beginChain) ∨
    ((s.engine = .busy ∨ s.engine = .fault) ∧ exec .start s = .next s) := by
  simp only [exec, execStart]
  cases s.engine with
  | idle => exact .inl ⟨.inl rfl, rfl⟩
  | done => exact .inl ⟨.inr rfl, rfl⟩
  | busy => exact .inr ⟨.inl rfl, rfl⟩
  | fault => exact .inr ⟨.inr rfl, rfl⟩

/-- What a write to `CMD` can do: START with the value 1, nothing with any other. -/
theorem writeCommand_cases (v : Word) (s : State) :
    (v = 1#32 ∧ (s.engine = .idle ∨ s.engine = .done) ∧ writeCommand v s = .next s.beginChain) ∨
    writeCommand v s = .next s := by
  by_cases hv : v = 1#32
  · subst hv
    rcases exec_start_cases s with ⟨he, h⟩ | ⟨_, h⟩
    · exact .inl ⟨rfl, he, h⟩
    · exact .inr h
  · exact .inr (writeCommand_other hv s)

/-- A host write of SRC by STATE (70_reset_and_hazards.md R246). -/
theorem writeSource_cases (i : Word) (v : Byte) (s : State) :
    ((s.engine = .idle ∨ s.engine = .done) ∧ writeSource i v s = .next (s.storeSrc i v)) ∨
    (s.engine = .busy ∧ writeSource i v s = .refused .srcWriteWhileBusy) ∨
    (s.engine = .fault ∧ writeSource i v s = .next s) := by
  unfold writeSource
  cases s.engine with
  | idle => exact .inl ⟨.inl rfl, rfl⟩
  | done => exact .inl ⟨.inr rfl, rfl⟩
  | busy => exact .inr (.inl ⟨rfl, rfl⟩)
  | fault => exact .inr (.inr ⟨rfl, rfl⟩)

/-- A host read of OUT (10_state.md R49, 70_reset_and_hazards.md R246): a fault at an index that does not exist, else a
value for the host. -/
theorem readOutput_cases (i : Word) (s : State) :
    (s.params.outCap ≤ i.toNat ∧ readOutput i s = .fault .outIndexAbsent) ∨
    (i.toNat < s.params.outCap ∧
      ((∃ v, readOutput i s = .next (s.deliverFree v)) ∨ ∃ v, readOutput i s = .next (s.deliver v))) := by
  unfold readOutput
  by_cases h : s.params.outCap ≤ i.toNat
  · exact .inl ⟨h, if_pos h⟩
  · refine .inr ⟨by omega, ?_⟩
    rw [if_neg h]
    split
    · exact .inl ⟨_, rfl⟩
    · exact .inr ⟨_, rfl⟩

end Sys2Proof.Machine
end

/-! ## What every micro-operation of a token keeps, its step keeps -/

section
namespace Sys2Proof.Machine

/-- A micro-operation answers in a state with `P`, or raises `r` in a state `t` with `Q r t`. -/
def Yields {α : Type} (P : State → Prop) (Q : Raise → State → Prop) (m : Micro α) : Prop :=
  (∀ a t, m = .ok a t → P t) ∧ ∀ r t, m = .stop r t → Q r t

variable {P P' : State → Prop} {Q : Raise → State → Prop}

@[simp] theorem yields_ok {α : Type} {a : α} {s : State} : Yields P Q (.ok a s : Micro α) ↔ P s :=
  ⟨fun h => h.1 a s rfl, fun hs => ⟨fun _ _ h => (by cases h; exact hs), fun _ _ h => by cases h⟩⟩

@[simp] theorem yields_stop {α : Type} {r : Raise} {s : State} : Yields P Q (.stop r s : Micro α) ↔ Q r s :=
  ⟨fun h => h.2 r s rfl, fun hs => ⟨fun _ _ h => (by cases h), fun _ _ h => by cases h; exact hs⟩⟩

/-- A step of the engine ends where its operation answers, or in fault entry at the raise. -/
theorem Yields.settle_cases {m : Micro Unit} {t : State} (hm : Yields P Q m) (h : settle m = .next t) :
    P t ∨ ∃ r u, Q r u ∧ t = u.enterFault r := by
  rcases settle_eq_next.mp h with h | ⟨r, u, h, ht⟩
  · exact .inl (hm.1 () t h)
  · exact .inr ⟨r, u, hm.2 r u h, ht⟩

/-- Proof rule for a token step: its micro-operations keep `P` inside the step, closing the block leads to `P'`, and what
raises satisfies `Q`. -/
structure TokenRule (P P' : State → Prop) (Q : Raise → State → Prop) : Prop where
  busy : ∀ {s}, P s → s.engine = .busy
  takes_bit : ∀ {s}, P s → Yields P Q (nextBit s)
  takes_byte : ∀ {s}, P s → Yields P Q (srcByte s)
  emits : ∀ {s}, P s → ∀ v, Yields P Q (emit v s)
  refuses_copy : ∀ {s}, P s → ∀ offset, Q ⟨.invalidBackReference, offset⟩ s
  closes : ∀ {s}, P s → Yields P' Q (blockEnd s)
  ends : ∀ {s}, P s → P' s

namespace TokenRule

theorem fetchToken (rule : TokenRule P P' Q) {s : State} (hs : P s) : Yields P Q (fetchToken s) :=
  readToken_invariant P Q (fun _ => rule.takes_bit) (fun _ => rule.takes_byte) hs

theorem copyBytes (rule : TokenRule P P' Q) (length src : Nat) {s : State} (hs : P s) :
    Yields P Q (copyBytes length src s) := by
  induction length generalizing src s with
  | zero => exact yields_ok.mpr hs
  | succ n ih =>
    rw [copyBytes_succ]
    have he := rule.emits hs (s.outAt src)
    cases e : emit (s.outAt src) s with
    | ok _ t => exact ih (src + 1) (he.1 _ t e)
    | stop r t => exact yields_stop.mpr (he.2 r t e)

theorem copy (rule : TokenRule P P' Q) (offset length : Word) {s : State} (hs : P s) :
    Yields P Q (copy offset length s) := by
  rcases copy_cases offset length s with ⟨_, h⟩ | ⟨_, h⟩
  · rw [h]; exact yields_stop.mpr (rule.refuses_copy hs offset)
  · rw [h]; exact rule.copyBytes _ _ hs

theorem settle (rule : TokenRule P P' Q) {m : Micro Unit} {t : State} (hm : Yields P Q m)
    (h : settle m = .next t) : P' t ∨ ∃ r u, Q r u ∧ t = u.enterFault r :=
  (hm.settle_cases h).imp_left rule.ends

theorem exec (rule : TokenRule P P' Q) (i : Instr) {s t : State} (hs : P s) (h : exec i s = .next t) :
    P' t ∨ ∃ r u, Q r u ∧ t = u.enterFault r := by
  cases i with
  | lit v => exact rule.settle (rule.emits hs v) h
  | scopy a b v => exact rule.settle (rule.copy _ _ hs) h
  | lcopy lo hi => exact rule.settle (rule.copy _ _ hs) h
  | xcopy lo hi n => exact rule.settle (rule.copy _ _ hs) h
  | eos lo hi => exact (rule.closes hs).settle_cases h
  | start =>
    rcases exec_start_cases s with ⟨he, _⟩ | ⟨_, e⟩
    · simp [rule.busy hs] at he
    · rw [e] at h; cases h; exact .inl (rule.ends hs)

/-- TokenStep (41_token_decode.md R140) ends in `P'`, or in fault entry at a raise with `Q`. -/
theorem tokenStep (rule : TokenRule P P' Q) {s t : State} (hs : P s) (h : tokenStep s = .next t) :
    P' t ∨ ∃ r u, Q r u ∧ t = u.enterFault r := by
  rcases tokenStep_cases s with ⟨i, u, hf, e⟩ | ⟨r, u, hf, e⟩
  · exact rule.exec i ((rule.fetchToken hs).1 i u hf) (e ▸ h)
  · rw [e] at h; cases h
    exact .inr ⟨r, u, (rule.fetchToken hs).2 r u hf, rfl⟩

end TokenRule

end Sys2Proof.Machine
end

/-! ## `ZLIST` as slots and as a sum -/

section
namespace Sys2Proof.Machine

/-- The listed lengths up to a slot, and that slot (43_block_chainer.md R180). -/
theorem listedBefore_succ (s : State) {k : Nat} (hk : k ≤ 32) :
    s.listedBefore (k + 1) = s.listedBefore k + (s.zslot k).toNat := by
  have hlen : k < s.zlist.toList.length := by simp; omega
  simp [State.listedBefore, State.zslot, List.take_add_one, List.getElem?_eq_getElem hlen,
    List.getD_eq_getElem?_getD]

@[simp] theorem listedBefore_zero (s : State) : s.listedBefore 0 = 0 := by simp [State.listedBefore]

/-- After reset every slot of `ZLIST` reads 0 (10_state.md R55), and so do the indices that are no slots (log 16). -/
@[simp] theorem zslot_resetInput (s : State) (i : Nat) : s.resetInput.zslot i = 0#32 := by
  have hr : s.resetInput.zlist.toList = List.replicate 33 0#32 := rfl
  rw [State.zslot, hr, List.getD_eq_getElem?_getD, List.getElem?_replicate]
  split <;> rfl

/-- One slot of `ZLIST` stored (10_state.md R43). -/
def State.storeSlot (s : State) (k : Nat) (v : Word) : State := { s with zlist := s.zlist.setIfInBounds k v }

theorem zslot_storeSlot (s : State) {k : Nat} (hk : k < 33) (v : Word) (j : Nat) :
    (s.storeSlot k v).zslot j = if j = k then v else s.zslot j := by
  by_cases hj : j = k
  · subst hj; simp [State.zslot, State.storeSlot, hk]
  · simp [State.zslot, State.storeSlot, hj, List.getElem?_set_ne (Ne.symm hj)]

end Sys2Proof.Machine
end

/-! ## The invariant (10_state.md R52) under each operation -/

section
namespace Sys2Proof.Machine

variable {s t : State}

theorem not_fault_of_busy (h : s.engine = .busy) : s.engine ≠ .fault := by simp [h]

namespace Invariant

theorem cause_none (h : Invariant s) (he : s.engine ≠ .fault) : s.faultCause = .none :=
  not_not.mp fun hc => he (h.cause_iff.mp hc)

/-- A state after reset meets the invariant, for every legal choice of the parameters (10_state.md R55). -/
theorem resetFor {p : Params} (hp : p.legal) : Invariant (State.resetFor p) where
  params_legal := hp
  src_wf := rfl
  out_wf := rfl
  cause_iff := by simp [State.resetFor]
  info_zero _ := rfl
  count_range := by simp [State.resetFor]
  window_bits := by simp [State.resetFor]
  cursor_window := by simp [State.resetFor]
  out_room := by simp [State.resetFor]
  written := by simp [State.resetFor]
  zidx_range := by simp [State.resetFor]
  listed := by simp [State.resetFor]
  in_block := by simp [State.resetFor]
  between_blocks := by simp [State.resetFor]
  done_source _ := rfl

/-- Reset differs from `resetFor` in the model's own fields alone, which the invariant does not read. -/
theorem resetInput (h : Invariant s) : Invariant s.resetInput := { resetFor h.params_legal with }

theorem dropMove (h : Invariant s) (rest : List HostMove) : Invariant (s.dropMove rest) := { h with }

theorem deliver (h : Invariant s) (v : Word) : Invariant (s.deliver v) := { h with }

theorem deliverFree (h : Invariant s) (v : Word) : Invariant (s.deliverFree v) := { h with }

theorem storeSrc (h : Invariant s) (i : Word) (v : Byte) : Invariant (s.storeSrc i v) :=
  { h with src_wf := wf_write h.src_wf i.isLt }

/-- Outside `BUSY` the invariant does not speak of `SRC_LEN` and `ZLIST`. -/
theorem storeInputs (h : Invariant s) (he : s.engine ≠ .busy) (len : Word) (list : Vector Word 33) :
    Invariant { s with srcLen := len, zlist := list } :=
  { h with
    listed := fun hb => absurd hb he
    in_block := fun hb => absurd hb he
    between_blocks := fun hb => absurd hb he }

/-- Fault entry (60_exceptions.md R217): what the invariant says of `BUSY` and `DONE` no longer applies. -/
theorem enterFault (h : Invariant s) {r : Raise} (hr : r.cause ≠ .none) : Invariant (s.enterFault r) :=
  { h with
    cause_iff := by simp [hr]
    info_zero := by simp
    count_range := fun hl => ⟨(h.count_range hl).1, by simp⟩
    listed := by simp
    in_block := by simp
    between_blocks := by simp
    done_source := by simp }

/-- START (43_block_chainer.md R171). -/
theorem beginChain (h : Invariant s) (he : s.engine ≠ .fault) : Invariant s.beginChain :=
  { h with
    cause_iff := by simp [h.cause_none he]
    info_zero := fun _ => h.info_zero he
    count_range := fun hl => ⟨(h.count_range hl).1, fun _ => (h.count_range hl).2 he⟩
    cursor_window := by simp
    out_room := by simp
    written := by simp
    zidx_range := by simp
    listed := by simp
    in_block := by simp
    between_blocks := by simp
    done_source := by simp }

end Invariant

/-! ### BlockBegin -/

/-- The end of the list (43_block_chainer.md R174): between blocks `SP` stands at `BLK_SRC_LIMIT`. -/
theorem Invariant.finish (h : Invariant s) (hb : s.engine = .busy) (hp : s.phase = .blockBegin) :
    Invariant s.finish :=
  have hf := not_fault_of_busy hb
  { h with
    cause_iff := by simp [h.cause_none hf]
    info_zero := fun _ => h.info_zero hf
    count_range := fun hl => ⟨(h.count_range hl).1, fun _ => (h.count_range hl).2 hf⟩
    listed := by simp
    in_block := by simp
    between_blocks := by simp
    done_source := fun _ => (h.between_blocks hb hp).1 }

/-- A listed block that fits `SRC_LEN` ends at a 32-bit index (43_block_chainer.md R180). -/
theorem openBlock_blkSrcLimit_toNat
    (fits : s.blkSrcLimit.toNat + (s.zslot s.zidx.toNat).toNat ≤ s.srcLen.toNat) :
    s.openBlock.blkSrcLimit.toNat = s.blkSrcLimit.toNat + (s.zslot s.zidx.toNat).toNat := by
  have := s.srcLen.isLt
  rw [openBlock_blkSrcLimit, BitVec.toNat_add, Nat.mod_eq_of_lt (by omega)]

/-- The opened block whose marker word is missing, in fault entry. -/
theorem Invariant.openBlock_enterFault (h : Invariant s)
    (fits : s.blkSrcLimit.toNat + (s.zslot s.zidx.toNat).toNat ≤ s.srcLen.toNat) {r : Raise} (hr : r.cause ≠ .none) :
    Invariant (s.openBlock.enterFault r) :=
  { h with
    cause_iff := by simp [hr]
    info_zero := by simp
    count_range := fun hl => ⟨(h.count_range hl).1, by simp⟩
    cursor_window := by
      rw [enterFault_blkSrcLimit, openBlock_blkSrcLimit_toNat fits]
      simp
    out_room := ⟨le_rfl, h.out_room.2.1, Nat.le_add_right _ _⟩
    listed := by simp
    in_block := by simp
    between_blocks := by simp
    done_source := by simp }

/-- A list that is not exhausted names a block at `ZIDX` (43_block_chainer.md R173). -/
theorem listExhausted_eq_false (h : s.listExhausted = false) : s.zidx ≠ 33#6 ∧ s.zslot s.zidx.toNat ≠ 0#32 := by
  simpa [State.listExhausted] using h

/-- A marker word read from two bytes is a 16-bit value (10_state.md R21). -/
theorem loadMarker_window_lt : s.loadMarker.window.toNat < 2 ^ s.loadMarker.count.toNat := s.loadMarker.window.isLt

/-- `SP` after a marker word, when two bytes remain (40_bitstream_reader.md R121). -/
theorem loadMarker_sp_toNat (room : s.sp.toNat + 2 ≤ s.blkSrcLimit.toNat) :
    s.loadMarker.sp.toNat = s.sp.toNat + 2 := by
  have := s.blkSrcLimit.isLt
  rw [loadMarker_sp, BitVec.toNat_add, BitVec.toNat_ofNat, Nat.mod_eq_of_lt (by omega)]

/-- A decode call begins (43_block_chainer.md R174). -/
theorem Invariant.openBlock_enterTokens (h : Invariant s) (hb : s.engine = .busy) (hp : s.phase = .blockBegin)
    (more : s.listExhausted = false)
    (fits : s.blkSrcLimit.toNat + (s.zslot s.zidx.toNat).toNat ≤ s.srcLen.toNat)
    (room : s.openBlock.sp.toNat + 2 ≤ s.openBlock.blkSrcLimit.toNat) :
    Invariant s.openBlock.loadMarker.enterTokens := by
  obtain ⟨-, -, sum⟩ := h.between_blocks hb hp
  obtain ⟨notEnd, notZero⟩ := listExhausted_eq_false more
  have hsp : s.openBlock.loadMarker.sp.toNat = s.blkSrcLimit.toNat + 2 := loadMarker_sp_toNat room
  have hlim := openBlock_blkSrcLimit_toNat fits
  have hsp' : s.openBlock.sp.toNat = s.blkSrcLimit.toNat := rfl
  have hz : s.zidx.toNat ≤ 32 := by
    have := h.zidx_range
    have : s.zidx.toNat ≠ 33 := fun e => notEnd (BitVec.eq_of_toNat_eq e)
    omega
  exact
    { h with
      count_range := fun _ => ⟨by simp, by simp⟩
      window_bits := fun _ => loadMarker_window_lt
      cursor_window := ⟨by simp only [enterTokens_sp, hsp]; simp, by
        simp only [enterTokens_sp, hsp, enterTokens_blkSrcLimit, loadMarker_blkSrcLimit]; omega⟩
      out_room := ⟨le_rfl, h.out_room.2.1, Nat.le_add_right _ _⟩
      in_block := fun _ _ => ⟨rfl, hsp.ge, hlim.trans_le fits, hz, notZero, hlim, sum⟩
      between_blocks := by simp
      done_source := by simp [hb] }

/-- BlockBegin (43_block_chainer.md R174) keeps the invariant, also by fault entry at its raises. -/
theorem Invariant.blockBegin (h : Invariant s) (hb : s.engine = .busy) (hp : s.phase = .blockBegin) :
    Yields Invariant (fun r t => Invariant (t.enterFault r)) (blockBegin s) := by
  rcases blockBegin_cases s with ⟨_, e⟩ | ⟨_, _, e⟩ | ⟨_, fits, _, e⟩ | ⟨more, fits, room, e⟩ <;> rw [e]
  · exact yields_ok.mpr (h.finish hb hp)
  · exact yields_stop.mpr (h.enterFault (by simp))
  · exact yields_stop.mpr (h.openBlock_enterFault fits (by simp))
  · exact yields_ok.mpr (h.openBlock_enterTokens hb hp more fits room)

/-! ### Inside a decode call -/

/-- The state inside a decode call, which a token's micro-operations keep. -/
structure InDecodeCall (s : State) : Prop where
  inv : Invariant s
  busy : s.engine = .busy
  phase : s.phase = .token

namespace InDecodeCall

theorem loaded (h : InDecodeCall s) : s.cursorLoaded = true := (h.inv.in_block h.busy h.phase).1

/-- `COUNT` is 1 to 16 (10_state.md R22). -/
theorem count_range (h : InDecodeCall s) : 1 ≤ s.count.toNat ∧ s.count.toNat ≤ 16 := by
  obtain ⟨hle, hpos⟩ := h.inv.count_range h.loaded
  exact ⟨hpos (not_fault_of_busy h.busy), hle⟩

theorem takeBit_count_toNat (h : InDecodeCall s) : s.takeBit.count.toNat = s.count.toNat - 1 := by
  have := h.count_range
  rw [takeBit_count]
  bv_omega

/-- The shift of NextBit leaves as many bits as `COUNT` says (10_state.md R21). -/
theorem takeBit_window_lt (h : InDecodeCall s) : s.takeBit.window.toNat < 2 ^ s.takeBit.count.toNat := by
  have hw := h.inv.window_bits h.loaded
  have := h.count_range
  rw [h.takeBit_count_toNat, takeBit_window, BitVec.toNat_ushiftRight, Nat.shiftRight_eq_div_pow,
    pow_one, Nat.div_lt_iff_lt_mul two_pos, ← pow_succ]
  rwa [Nat.sub_add_cancel this.1]

/-- `SP` moves forward inside the window of the block (10_state.md R23), with `WINDOW` and `COUNT` in range. -/
theorem moveCursor (h : InDecodeCall s) (w : Marker) (c : BitVec 5) (sp : Word) {loaded : Bool}
    (forward : s.sp.toNat ≤ sp.toNat) (inside : sp.toNat ≤ s.blkSrcLimit.toNat)
    (hc : 1 ≤ c.toNat ∧ c.toNat ≤ 16) (hw : w.toNat < 2 ^ c.toNat) (hl : loaded = true) :
    InDecodeCall { s with window := w, count := c, sp := sp, cursorLoaded := loaded } where
  inv :=
    { h.inv with
      count_range := fun _ => ⟨hc.2, fun _ => hc.1⟩
      window_bits := fun _ => hw
      cursor_window := ⟨h.inv.cursor_window.1.trans forward, inside⟩
      in_block := fun hb hp => by
        obtain ⟨-, marker, block⟩ := h.inv.in_block hb hp
        exact ⟨hl, marker.trans forward, block⟩
      between_blocks := by simp [h.phase]
      done_source := by simp [h.busy] }
  busy := h.busy
  phase := h.phase

/-- A bit taken with bits left in the window (40_bitstream_reader.md R123). -/
theorem takeBit (h : InDecodeCall s) (more : s.takeBit.count ≠ 0#5) : InDecodeCall s.takeBit := by
  have range := h.count_range
  have hc := h.takeBit_count_toNat
  have hne : s.takeBit.count.toNat ≠ 0 := fun e => more (BitVec.eq_of_toNat_eq e)
  exact h.moveCursor s.takeBit.window s.takeBit.count s.sp le_rfl h.inv.cursor_window.2 (by omega)
    h.takeBit_window_lt h.loaded

/-- The last bit of the window taken, and the next marker word loaded. -/
theorem takeBit_loadMarker (h : InDecodeCall s) (room : s.sp.toNat + 2 ≤ s.blkSrcLimit.toNat) :
    InDecodeCall s.takeBit.loadMarker := by
  have hsp : s.takeBit.loadMarker.sp.toNat = s.sp.toNat + 2 := loadMarker_sp_toNat room
  exact h.moveCursor _ _ s.takeBit.loadMarker.sp (by omega) (hsp.trans_le room) (by simp) loadMarker_window_lt rfl

/-- The last bit of the window taken and no marker word left to load, in fault entry: `COUNT` is 0 (10_state.md R22). -/
theorem takeBit_enterFault (h : InDecodeCall s) {r : Raise} (hr : r.cause ≠ .none) :
    Invariant (s.takeBit.enterFault r) :=
  { h.inv.enterFault hr with
    count_range := fun _ => by
      have range := h.count_range
      rw [enterFault_count, h.takeBit_count_toNat]
      exact ⟨by omega, by simp⟩
    window_bits := fun _ => h.takeBit_window_lt }

/-- A raw byte taken (40_bitstream_reader.md R124). -/
theorem advanceSource (h : InDecodeCall s) (room : s.sp.toNat < s.blkSrcLimit.toNat) :
    InDecodeCall s.advanceSource := by
  have hsp : s.advanceSource.sp.toNat = s.sp.toNat + 1 := by
    have := s.blkSrcLimit.isLt
    rw [advanceSource_sp, BitVec.toNat_add, BitVec.toNat_ofNat, Nat.mod_eq_of_lt (by omega)]
  exact h.moveCursor _ _ s.advanceSource.sp (by omega) (hsp.trans_le room) h.count_range
    (h.inv.window_bits h.loaded) h.loaded

/-- A byte of output written below both caps (42_copy_engine.md R160). -/
theorem appendOut (h : InDecodeCall s) (v : Byte) (blockRoom : s.wc.toNat < s.blkOutBase.toNat + s.params.blockCap)
    (outRoom : s.wc.toNat < s.params.outCap) : InDecodeCall (s.appendOut v) := by
  obtain ⟨base, -, -⟩ := h.inv.out_room
  have hwc : (s.appendOut v).wc.toNat = s.wc.toNat + 1 := by
    have := h.inv.params_legal.2.2
    rw [appendOut_wc, BitVec.toNat_add, BitVec.toNat_ofNat, Nat.mod_eq_of_lt (by omega)]
  refine ⟨{ h.inv with out_wf := wf_write h.inv.out_wf outRoom, out_room := ?_, written := ?_ }, h.busy, h.phase⟩
  · rw [hwc]
    exact ⟨base.trans (Nat.le_succ _), outRoom, blockRoom⟩
  · intro i hi
    rw [appendOut_out]
    by_cases e : i = s.wc.toNat
    · rw [e, read_write_same]; rfl
    · exact isSome_read_write _ _ _ _ (h.inv.written i (by omega))

/-- A block closed with all its bytes consumed (43_block_chainer.md R176). -/
theorem closeBlock (h : InDecodeCall s) (all : s.sp.toNat = s.blkSrcBase.toNat + (s.zslot s.zidx.toNat).toNat) :
    Invariant s.closeBlock := by
  obtain ⟨-, -, fits, hz, notZero, limit, sum⟩ := h.inv.in_block h.busy h.phase
  have hidx : s.closeBlock.zidx.toNat = s.zidx.toNat + 1 := by
    rw [closeBlock_zidx, BitVec.toNat_add, BitVec.toNat_ofNat, Nat.mod_eq_of_lt (by omega)]
  refine
    { h.inv with
      zidx_range := by omega
      listed := fun hb i hi => ?_
      in_block := by simp
      between_blocks := fun _ _ => ⟨BitVec.eq_of_toNat_eq (all.trans limit.symm), fits, ?_⟩
      done_source := by simp [h.busy] }
  · by_cases e : i = s.zidx.toNat
    · exact e ▸ notZero
    · exact h.inv.listed hb i (by omega)
  · rw [hidx]
    calc s.blkSrcLimit.toNat = s.listedBefore s.zidx.toNat + (s.zslot s.zidx.toNat).toNat := by rw [limit, sum]
      _ = s.listedBefore (s.zidx.toNat + 1) := (listedBefore_succ s hz).symm

/-- Each micro-operation of a token stays inside the decode call, closes the block, or raises into the invariant. -/
theorem rule : TokenRule InDecodeCall Invariant fun r t => Invariant (t.enterFault r) where
  busy h := h.busy
  takes_bit {s} h := by
    rcases nextBit_cases s with ⟨more, e⟩ | ⟨_, room, e⟩ | ⟨_, _, e⟩ <;> rw [e]
    · exact yields_ok.mpr (h.takeBit more)
    · exact yields_ok.mpr (h.takeBit_loadMarker room)
    · exact yields_stop.mpr (h.takeBit_enterFault (by simp))
  takes_byte {s} h := by
    rcases srcByte_cases s with ⟨room, e⟩ | ⟨_, e⟩ <;> rw [e]
    · exact yields_ok.mpr (h.advanceSource room)
    · exact yields_stop.mpr (h.inv.enterFault (by simp))
  emits {s} h v := by
    rcases emit_cases v s with ⟨_, e⟩ | ⟨_, _, e⟩ | ⟨blockRoom, outRoom, e⟩ <;> rw [e]
    · exact yields_stop.mpr (h.inv.enterFault (by simp))
    · exact yields_stop.mpr (h.inv.enterFault (by simp))
    · exact yields_ok.mpr (h.appendOut v blockRoom outRoom)
  refuses_copy h _ := h.inv.enterFault (by simp)
  closes {s} h := by
    rcases blockEnd_cases s with ⟨all, e⟩ | ⟨_, e⟩ <;> rw [e]
    · exact yields_ok.mpr (h.closeBlock all)
    · exact yields_stop.mpr (h.inv.enterFault (by simp))
  ends h := h.inv

end InDecodeCall

/-! ### Steps -/

/-- Every step of the engine keeps the invariant (10_state.md R52). -/
theorem Invariant.engineStep (h : Invariant s) (he : engineStep s = .next t) : Invariant t := by
  have keeps : (Invariant t ∨ ∃ (r : Raise) (u : State), Invariant (u.enterFault r) ∧ t = u.enterFault r) →
      Invariant t := by
    rintro (ht | ⟨r, u, hu, rfl⟩)
    · exact ht
    · exact hu
  rcases engineStep_cases s with ⟨_, e⟩ | ⟨hb, hp, e⟩ | ⟨hb, hp, e⟩ <;> rw [e] at he
  · cases he; exact h
  · exact keeps ((h.blockBegin hb hp).settle_cases he)
  · exact keeps (InDecodeCall.rule.tokenStep ⟨h, hb, hp⟩ he)

theorem Invariant.writeRegister (h : Invariant s) (n : BitVec 6) (v : Word) : Invariant (writeRegister n v s) := by
  obtain ⟨frame, ignored⟩ := writeRegister_frame n v s
  by_cases he : s.engine = .busy
  · rw [ignored (.inl he)]; exact h
  · rw [frame]; exact h.storeInputs he _ _

theorem Invariant.readRegister (h : Invariant s) (n : BitVec 6) : Invariant (readRegister n s) := by
  rcases readRegister_cases n s with ⟨v, _, e⟩ | ⟨_, e⟩ <;> rw [e]
  · exact h.deliverFree v
  · exact h.deliver _

/-- Every move of the host keeps the invariant (70_reset_and_hazards.md R246). -/
theorem Invariant.hostStep (h : Invariant s) {m : HostMove} (he : hostStep m s = .next t) : Invariant t := by
  cases m with
  | writeReg n v =>
    by_cases hn : n = 0#6
    · subst hn
      rw [hostStep_writeCmd] at he
      rcases writeCommand_cases v s with ⟨_, hs, e⟩ | e <;> rw [e] at he <;> cases he
      · exact h.beginChain (by rcases hs with hs | hs <;> simp [hs])
      · exact h
    · rw [hostStep_writeReg hn] at he; cases he; exact h.writeRegister n v
  | readReg n => cases he; exact h.readRegister n
  | writeSrc i v =>
    rw [hostStep_writeSrc] at he
    rcases writeSource_cases i v s with ⟨_, e⟩ | ⟨_, e⟩ | ⟨_, e⟩ <;> rw [e] at he <;> cases he
    · exact h.storeSrc i v
    · exact h
  | readOut i =>
    rw [hostStep_readOut] at he
    rcases readOutput_cases i s with ⟨_, e⟩ | ⟨_, ⟨v, e⟩ | ⟨v, e⟩⟩ <;> rw [e] at he <;> cases he
    · exact h.deliverFree v
    · exact h.deliver v
  | reset => cases he; exact h.resetInput
  | wait => exact h.engineStep he

end Sys2Proof.Machine

open Sys2Proof Sys2Proof.Machine

/-- Settles O31: the engine's step or the host's next move keeps the invariant. -/
theorem stepKeepsTheInvariant : Obligations.StepKeepsTheInvariant := by
  intro s t h hs
  rcases step_kinds s with ⟨_, e⟩ | ⟨m, rest, _, e⟩ <;> rw [e] at hs
  · exact h.engineStep hs
  · exact (h.dropMove rest).hostStep hs

/-- Settles O30: `State.reset` is `State.resetFor` with legal parameters. -/
theorem resetMeetsTheInvariant : Obligations.ResetMeetsTheInvariant :=
  ⟨Invariant.resetFor (by decide), fun _ => Invariant.resetFor⟩
end

/-! ## STATE -/

section
namespace Sys2Proof.Machine

variable {s t : State}

theorem nextBit_engine (he : s.engine = .busy) :
    Yields (fun t => t.engine = .busy) (fun r _ => r.cause ≠ .none) (nextBit s) := by
  rcases nextBit_cases s with ⟨_, e⟩ | ⟨_, _, e⟩ | ⟨_, _, e⟩ <;> rw [e] <;> simp [he]

theorem srcByte_engine (he : s.engine = .busy) :
    Yields (fun t => t.engine = .busy) (fun r _ => r.cause ≠ .none) (srcByte s) := by
  rcases srcByte_cases s with ⟨_, e⟩ | ⟨_, e⟩ <;> rw [e] <;> simp [he]

theorem emit_engine (he : s.engine = .busy) (v : Byte) :
    Yields (fun t => t.engine = .busy) (fun r _ => r.cause ≠ .none) (emit v s) := by
  rcases emit_cases v s with ⟨_, e⟩ | ⟨_, _, e⟩ | ⟨_, _, e⟩ <;> rw [e] <;> simp [he]

theorem blockEnd_engine (he : s.engine = .busy) :
    Yields (fun t => t.engine = .busy) (fun r _ => r.cause ≠ .none) (blockEnd s) := by
  rcases blockEnd_cases s with ⟨_, e⟩ | ⟨_, e⟩ <;> rw [e] <;> simp [he]

/-- A token's micro-operations leave STATE at `BUSY`, and every raise names a cause (10_state.md R46, R47). -/
theorem tokenRule_engine :
    TokenRule (fun s => s.engine = .busy) (fun s => s.engine = .busy) fun r _ => r.cause ≠ .none where
  busy h := h
  takes_bit := nextBit_engine
  takes_byte := srcByte_engine
  emits := emit_engine
  refuses_copy := by simp
  closes := blockEnd_engine
  ends h := h

/-- BlockBegin ends in `DONE` when the list is exhausted, stays in `BUSY`, or raises with a cause. -/
theorem blockBegin_engine (he : s.engine = .busy) :
    Yields (fun t => t.engine = .busy ∨ (s.listExhausted = true ∧ t.engine = .done))
      (fun r _ => r.cause ≠ .none) (blockBegin s) := by
  rcases blockBegin_cases s with ⟨hx, e⟩ | ⟨_, _, e⟩ | ⟨_, _, _, e⟩ | ⟨_, _, _, e⟩ <;> rw [e]
  · exact yields_ok.mpr (.inr ⟨hx, rfl⟩)
  · exact yields_stop.mpr (by simp)
  · exact yields_stop.mpr (by simp)
  · exact yields_ok.mpr (.inl he)

/-- How a step of the engine changes STATE (10_state.md R46). -/
theorem engineStep_engine (h : engineStep s = .next t) :
    t.engine = s.engine ∨
    (s.engine = .busy ∧ s.phase = .blockBegin ∧ s.listExhausted = true ∧ t.engine = .done) ∨
    (s.engine = .busy ∧ t.engine = .fault ∧ t.faultCause ≠ .none) := by
  rcases engineStep_cases s with ⟨_, e⟩ | ⟨hb, hp, e⟩ | ⟨hb, hp, e⟩ <;> rw [e] at h
  · cases h; exact .inl rfl
  · rcases (blockBegin_engine hb).settle_cases h with (ht | ⟨hx, ht⟩) | ⟨r, u, hr, rfl⟩
    · exact .inl (ht.trans hb.symm)
    · exact .inr (.inl ⟨hb, hp, hx, ht⟩)
    · exact .inr (.inr ⟨hb, rfl, hr⟩)
  · rcases tokenRule_engine.tokenStep hb h with ht | ⟨r, u, hr, rfl⟩
    · exact .inl (ht.trans hb.symm)
    · exact .inr (.inr ⟨hb, rfl, hr⟩)

@[simp] theorem writeRegister_engine (n : BitVec 6) (v : Word) (s : State) :
    (writeRegister n v s).engine = s.engine := by
  rw [(writeRegister_frame n v s).1]

@[simp] theorem readRegister_engine (n : BitVec 6) (s : State) : (readRegister n s).engine = s.engine := by
  rcases readRegister_cases n s with ⟨v, _, e⟩ | ⟨_, e⟩ <;> rw [e] <;> rfl

/-- How a move of the host changes STATE (10_state.md R46): reset, START, or the step it leaves to the engine. -/
theorem hostStep_engine {m : HostMove} (h : hostStep m s = .next t) :
    t.engine = s.engine ∨ (m = .reset ∧ t.engine = .idle) ∨
    (m = .writeReg 0#6 1#32 ∧ (s.engine = .idle ∨ s.engine = .done) ∧ t.engine = .busy) ∨
    (m = .wait ∧ engineStep s = .next t) := by
  cases m with
  | writeReg n v =>
    by_cases hn : n = 0#6
    · subst hn
      rw [hostStep_writeCmd] at h
      rcases writeCommand_cases v s with ⟨hv, hs, e⟩ | e <;> rw [e] at h <;> cases h
      · exact .inr (.inr (.inl ⟨by rw [hv], hs, rfl⟩))
      · exact .inl rfl
    · rw [hostStep_writeReg hn] at h; cases h; exact .inl (writeRegister_engine n v s)
  | readReg n => cases h; exact .inl (readRegister_engine n s)
  | writeSrc i v =>
    rw [hostStep_writeSrc] at h
    rcases writeSource_cases i v s with ⟨_, e⟩ | ⟨_, e⟩ | ⟨_, e⟩ <;> rw [e] at h <;> cases h <;> exact .inl rfl
  | readOut i =>
    rw [hostStep_readOut] at h
    rcases readOutput_cases i s with ⟨_, e⟩ | ⟨_, ⟨v, e⟩ | ⟨v, e⟩⟩ <;> rw [e] at h <;> cases h <;> exact .inl rfl
  | reset => cases h; exact .inr (.inl ⟨rfl, rfl⟩)
  | wait => exact .inr (.inr (.inr ⟨rfl, h⟩))

end Sys2Proof.Machine

open Sys2Proof Sys2Proof.Machine

/-- Settles O26, from what a step of the engine and a move of the host do to STATE. -/
theorem engineStateTransitions : Obligations.EngineStateTransitions := by
  refine ⟨rfl, rfl, rfl, rfl, rfl, fun s rest h => ⟨_, step_of_move h, rfl⟩, fun s t h hne => ?_⟩
  rcases step_kinds s with ⟨_, e⟩ | ⟨m, rest, hm, e⟩ <;> rw [e] at h
  · exact .inr (.inr ((engineStep_engine h).resolve_left hne))
  · rcases (hostStep_engine h).resolve_left hne with ⟨rfl, ht⟩ | ⟨rfl, hs, ht⟩ | ⟨rfl, hw⟩
    · exact .inl ⟨⟨rest, hm⟩, ht⟩
    · exact .inr (.inl ⟨⟨rest, hm⟩, hs, ht⟩)
    · exact .inr (.inr ((engineStep_engine hw).resolve_left hne))
end

/-! ## Where a step stops -/

section
namespace Sys2Proof.Machine

theorem settle_next (m : Micro Unit) : ∃ t, settle m = .next t := by
  cases m with
  | ok a t => exact ⟨t, rfl⟩
  | stop r t => exact ⟨t.enterFault r, rfl⟩

/-- Every instruction answers a next state from every state; the engine's faults are next states too (60_exceptions.md
R217). -/
theorem exec_next (i : Instr) (s : State) : ∃ t, exec i s = .next t := by
  cases i with
  | lit v => exact settle_next _
  | scopy a b v => exact settle_next _
  | lcopy lo hi => exact settle_next _
  | xcopy lo hi n => exact settle_next _
  | eos lo hi => exact settle_next _
  | start => rcases exec_start_cases s with ⟨_, e⟩ | ⟨_, e⟩ <;> exact ⟨_, e⟩

theorem tokenStep_next (s : State) : ∃ t, tokenStep s = .next t := by
  rcases tokenStep_cases s with ⟨i, u, _, e⟩ | ⟨r, u, _, e⟩ <;> rw [e]
  · exact exec_next i u
  · exact ⟨_, rfl⟩

theorem engineStep_next (s : State) : ∃ t, engineStep s = .next t := by
  rcases engineStep_cases s with ⟨_, e⟩ | ⟨_, _, e⟩ | ⟨_, _, e⟩ <;> rw [e]
  · exact ⟨s, rfl⟩
  · exact settle_next _
  · exact tokenStep_next s

/-- A move of the host answers a next state, but for the two moves that stop (logs 12, 14). -/
theorem hostStep_stops (m : HostMove) (s : State) :
    (∃ t, hostStep m s = .next t) ∨
    (∃ i, m = .readOut i ∧ s.params.outCap ≤ i.toNat ∧ hostStep m s = .fault .outIndexAbsent) ∨
    ∃ i v, m = .writeSrc i v ∧ s.engine = .busy ∧ hostStep m s = .refused .srcWriteWhileBusy := by
  cases m with
  | writeReg n v =>
    by_cases hn : n = 0#6
    · subst hn
      rcases writeCommand_cases v s with ⟨_, _, e⟩ | e <;> exact .inl ⟨_, e⟩
    · exact .inl ⟨_, hostStep_writeReg hn v s⟩
  | readReg n => exact .inl ⟨_, rfl⟩
  | writeSrc i v =>
    rcases writeSource_cases i v s with ⟨_, e⟩ | ⟨hb, e⟩ | ⟨_, e⟩
    · exact .inl ⟨_, e⟩
    · exact .inr (.inr ⟨i, v, rfl, hb, e⟩)
    · exact .inl ⟨_, e⟩
  | readOut i =>
    rcases readOutput_cases i s with ⟨hi, e⟩ | ⟨_, ⟨v, e⟩ | ⟨v, e⟩⟩
    · exact .inr (.inl ⟨i, rfl, hi, e⟩)
    · exact .inl ⟨_, e⟩
    · exact .inl ⟨_, e⟩
  | reset => exact .inl ⟨_, rfl⟩
  | wait => exact .inl (engineStep_next s)

/-- A step answers a next state, but for the host's two moves that stop (logs 12, 14). -/
theorem step_stops (s : State) :
    (∃ t, step s = .next t) ∨
    (∃ i rest, s.hostMoves = .readOut i :: rest ∧ s.params.outCap ≤ i.toNat ∧ step s = .fault .outIndexAbsent) ∨
    ∃ i v rest, s.hostMoves = .writeSrc i v :: rest ∧ s.engine = .busy ∧ step s = .refused .srcWriteWhileBusy := by
  rcases step_kinds s with ⟨_, e⟩ | ⟨m, rest, hm, e⟩ <;> rw [e]
  · exact .inl (engineStep_next s)
  · rcases hostStep_stops m (s.dropMove rest) with h | ⟨i, rfl, hi, h⟩ | ⟨i, v, rfl, hb, h⟩
    · exact .inl h
    · exact .inr (.inl ⟨i, rest, hm, hi, h⟩)
    · exact .inr (.inr ⟨i, v, rest, hm, hb, h⟩)

/-- A host read of an OUT index that does not exist stops the machine (10_state.md R49; log 14). -/
theorem step_readOut_absent {s : State} {i : Word} {rest : List HostMove} (h : s.hostMoves = .readOut i :: rest)
    (hi : s.params.outCap ≤ i.toNat) : step s = .fault .outIndexAbsent :=
  (step_of_move h).trans (if_pos hi)

/-- A host write of SRC in `BUSY` is refused (70_reset_and_hazards.md R247; log 12). -/
theorem step_writeSrc_busy {s : State} {i : Word} {v : Byte} {rest : List HostMove}
    (h : s.hostMoves = .writeSrc i v :: rest) (hb : s.engine = .busy) : step s = .refused .srcWriteWhileBusy := by
  rw [step_of_move h, hostStep_writeSrc, writeSource, dropMove_engine, hb]

end Sys2Proof.Machine

open Sys2Proof Sys2Proof.Machine

/-- Settles O29, from the one list of the ways a step can stop. -/
theorem stepStopsOnlyOnTheHost : Obligations.StepStopsOnlyOnTheHost := by
  refine ⟨engineStep_next, fun s f => ⟨fun h => ?_, ?_⟩, fun s r => ⟨fun h => ?_, ?_⟩⟩
  · rcases step_stops s with ⟨t, e⟩ | ⟨i, rest, hm, hi, e⟩ | ⟨i, v, rest, hm, hb, e⟩ <;> rw [e] at h <;> cases h
    exact ⟨rfl, i, rest, hm, hi⟩
  · rintro ⟨rfl, i, rest, hm, hi⟩
    exact step_readOut_absent hm hi
  · rcases step_stops s with ⟨t, e⟩ | ⟨i, rest, hm, hi, e⟩ | ⟨i, v, rest, hm, hb, e⟩ <;> rw [e] at h <;> cases h
    exact ⟨rfl, i, v, rest, hm, hb⟩
  · rintro ⟨rfl, i, v, rest, hm, hb⟩
    exact step_writeSrc_busy hm hb
end

/-! ## Registers -/

section
namespace Sys2Proof.Machine

/-- A read whose value is specified returns the register's view and has no other effect (10_state.md R30). -/
theorem step_readReg {s : State} {n : BitVec 6} {rest : List HostMove} (h : s.hostMoves = .readReg n :: rest)
    (specified : s.unspecifiedRead n = none) :
    step s = .next { s.dropMove rest with hostData := s.regView n } := by
  have hd : (s.dropMove rest).unspecifiedRead n = none := specified
  rw [step_of_move h, hostStep_readReg, readRegister, hd]
  rfl

/-- Reads of `CMD` and `STATUS` are specified in every state (70_reset_and_hazards.md R246; log 15). -/
theorem unspecifiedRead_cmd (s : State) : s.unspecifiedRead 0#6 = none := by
  simp [State.unspecifiedRead, hiddenWhileBusy]

theorem unspecifiedRead_status (s : State) : s.unspecifiedRead 1#6 = none := by
  simp [State.unspecifiedRead, hiddenWhileBusy]

/-- Outside `BUSY` every read is specified, but for `WINDOW` and `COUNT` before the first Reload (10_state.md R55; log
6). -/
theorem unspecifiedRead_outside_busy {s : State} {n : BitVec 6} (he : s.engine ≠ .busy)
    (hn : s.cursorLoaded = true ∨ (n ≠ 8#6 ∧ n ≠ 9#6)) : s.unspecifiedRead n = none := by
  rw [State.unspecifiedRead, if_neg he]
  rcases hn with hl | ⟨h8, h9⟩
  · rw [if_pos hl]
  · rw [if_neg h8, if_neg h9, ite_self]

/-- A write of a register other than `CMD` is one step. -/
theorem step_writeReg {s : State} {n : BitVec 6} {v : Word} {rest : List HostMove}
    (h : s.hostMoves = .writeReg n v :: rest) (hn : n ≠ 0#6) :
    step s = .next (writeRegister n v (s.dropMove rest)) := by
  rw [step_of_move h, hostStep_writeReg hn]

/-- In `IDLE` and `DONE` a write stores (10_state.md R30). -/
theorem writeRegister_of_accepts {s : State} (he : s.engine = .idle ∨ s.engine = .done) (n : BitVec 6) (v : Word) :
    writeRegister n v s = s.storeRegister n v := by
  rcases he with he | he <;> simp [writeRegister, State.acceptsWrites, he]

/-- `SRC_LEN` (10_state.md R33). -/
theorem storeRegister_srcLen (s : State) (v : Word) : s.storeRegister 2#6 v = { s with srcLen := v } := rfl

/-- `ZLIST` (10_state.md R43). -/
theorem storeRegister_zlist (s : State) {n : BitVec 6} (h : 16 ≤ n.toNat) (h' : n.toNat ≤ 48) (v : Word) :
    s.storeRegister n v = s.storeSlot (n.toNat - 16) v := by
  have hn : n ≠ 2#6 := by rintro rfl; simp at h
  rw [State.storeRegister, if_neg hn, if_pos ⟨h, h'⟩]
  rfl

/-- Every other number stores nothing (10_state.md R44). -/
theorem storeRegister_other (s : State) {n : BitVec 6} (hn : n ≠ 2#6) (h : n.toNat < 16 ∨ 48 < n.toNat) (v : Word) :
    s.storeRegister n v = s := by
  rw [State.storeRegister, if_neg hn, if_neg (by omega)]

/-! ### STATUS (10_state.md R32) -/

/-- A 2-bit field at bit 0 and a 4-bit field at bit 4 of a word. -/
theorem fields_of_status (e : BitVec 2) (c : BitVec 4) :
    (e.setWidth 32 ||| (c.setWidth 32 <<< 4)).extractLsb' 0 2 = e ∧
    (e.setWidth 32 ||| (c.setWidth 32 <<< 4)).extractLsb' 2 2 = 0#2 ∧
    (e.setWidth 32 ||| (c.setWidth 32 <<< 4)).extractLsb' 4 4 = c ∧
    (e.setWidth 32 ||| (c.setWidth 32 <<< 4)).extractLsb' 8 24 = 0#24 := by
  decide +revert

/-- The word of a state with STATE `e` and FAULT_CAUSE `c`. -/
theorem statusWord_eq {s : State} {e : EngineState} {c : FaultCause} (he : s.engine = e) (hc : s.faultCause = c) :
    s.statusWord = e.code.setWidth 32 ||| (c.code.setWidth 32 <<< 4) := by
  rw [State.statusWord, he, hc]

end Sys2Proof.Machine

open Sys2Proof Sys2Proof.Machine

/-- Settles O19. -/
theorem commandRegister : Obligations.CommandRegister := by
  refine ⟨fun s rest h => ?_, fun s rest v h hv => ?_, fun s rest h => ?_⟩
  · rw [step_of_move h, hostStep_writeCmd, writeCommand_one]
  · rw [step_of_move h, hostStep_writeCmd, writeCommand_other hv]
  · exact step_readReg h (unspecifiedRead_cmd s)

/-- Settles O37, by the register's number: `SRC_LEN`, a slot of `ZLIST`, or none that stores. -/
theorem registerWritesByState : Obligations.RegisterWritesByState := by
  intro s n v rest h hn
  refine ⟨_, step_writeReg h hn, (writeRegister_frame n v (s.dropMove rest)).2, fun he => ?_⟩
  rw [writeRegister_of_accepts (s := s.dropMove rest) he]
  refine ⟨?_, fun hlo hhi => ?_, fun h2 hout => storeRegister_other _ h2 hout v⟩
  · rintro rfl
    exact storeRegister_srcLen _ v
  · have hslot := zslot_storeSlot (s.dropMove rest) (show n.toNat - 16 < 33 by omega) v
    rw [storeRegister_zlist _ hlo hhi]
    exact ⟨rfl, by rw [hslot, if_pos rfl], fun k hk => by rw [hslot, if_neg hk]; rfl⟩

/-- Settles O38: the read is specified, and its value is the register map's, number by number. -/
theorem registerReadsOutsideBusy : Obligations.RegisterReadsOutsideBusy := by
  intro s n rest h he hn
  have low : ∀ k, k < 16 → n.toNat = k → s.regView n = s.lowView k := fun k hk hn => regView_low s n hn hk
  refine ⟨_, step_readReg h (unspecifiedRead_outside_busy he hn), low 0 (by decide), low 1 (by decide),
    low 2 (by decide), low 3 (by decide), low 4 (by decide), low 5 (by decide), low 6 (by decide),
    fun h7 => ?_, fun h8 => ?_, fun h9 => ?_, low 10 (by decide), low 11 (by decide), low 12 (by decide),
    low 13 (by decide), ?_, regView_zlist s n⟩
  · rw [low 7 (by decide) h7]
    exact BitVec.toNat_setWidth_of_le (by decide)
  · rw [low 8 (by decide) h8]
    exact BitVec.toNat_setWidth_of_le (by decide)
  · rw [low 9 (by decide) h9]
    exact BitVec.toNat_setWidth_of_le (by decide)
  · rintro (h14 | h15 | high)
    · exact low 14 (by decide) h14
    · exact low 15 (by decide) h15
    · exact regView_high s n high

/-- Settles O40. -/
theorem statusRegister : Obligations.StatusRegister := by
  refine ⟨fun s => fields_of_status _ _, fun s rest h => step_readReg h (unspecifiedRead_status s), fun s => ?_⟩
  exact ⟨statusWord_eq, statusWord_eq, statusWord_eq, statusWord_eq, statusWord_eq, statusWord_eq, statusWord_eq⟩
end

/-! ## Reset -/

section
namespace Sys2Proof.Machine

/-- A chain of zero blocks (43_block_chainer.md R174): BlockBegin at an exhausted list ends it. -/
theorem engineStep_of_listExhausted {s : State} (hb : s.engine = .busy) (hp : s.phase = .blockBegin)
    (hx : s.listExhausted = true) : engineStep s = .next s.finish := by
  simp [engineStep, hb, hp, blockBegin, hx, settle]

/-- A START from `IDLE` with an empty list is `DONE` with no output after BlockBegin. -/
theorem run_start_of_empty_list {s : State} (hm : s.hostMoves = [.writeReg 0#6 1#32]) (he : s.engine = .idle)
    (empty : s.zslot 0 = 0#32) :
    run 2 s = .next ((s.dropMove []).beginChain).finish := by
  have start : step s = .next (s.dropMove []).beginChain := by
    rw [step_of_move hm, hostStep_writeCmd, writeCommand_one, exec, execStart, dropMove_engine, he]
  have exhausted : (s.dropMove []).beginChain.listExhausted = true := by
    have slot : (s.dropMove []).beginChain.zslot 0 = 0#32 := empty
    simp [State.listExhausted, slot]
  have finish : step (s.dropMove []).beginChain = .next (s.dropMove []).beginChain.finish := by
    rw [step_of_no_move rfl, engineStep_of_listExhausted rfl rfl exhausted]
  simp [run, start, finish]

end Sys2Proof.Machine

open Sys2Proof Sys2Proof.Machine

/-- Settles O36: the host's reset move gives `resetInput`, whose list is empty. -/
theorem resetLeavesTheTable : Obligations.ResetLeavesTheTable := by
  intro s rest h
  refine ⟨(s.dropMove rest).resetInput, step_of_move h, rfl, rfl, rfl, rfl, zslot_resetInput (s.dropMove rest),
    rfl, rfl, rfl, rfl, rfl, rfl, rfl, fun _ => rfl, fun _ => rfl, rfl, rfl, rfl, rfl, fun hr => ?_, ?_⟩
  · rw [step_of_no_move hr]
    rfl
  · exact ⟨_, run_start_of_empty_list rfl rfl (zslot_resetInput (s.dropMove rest) 0), rfl, rfl⟩
end

/-! ## SRC: what the engine reads and leaves unwritten (20_memory.md) -/

section
namespace Sys2Proof.Machine

variable {s t : State} {src : Memory}

/-! ### The engine's inputs -/

/-- What the host gives the engine to read (10_state.md R33, R43, R48), the configuration, and the model's own record of
resets, free reads and host moves. -/
structure Inputs where
  src : Memory
  srcLen : Word
  zlist : Vector Word 33
  params : Params
  resets : Nat
  freeReads : Nat
  hostMoves : List HostMove
  hostData : Word

def State.inputs (s : State) : Inputs :=
  ⟨s.src, s.srcLen, s.zlist, s.params, s.resets, s.freeReads, s.hostMoves, s.hostData⟩

theorem inputs_eq_iff :
    t.inputs = s.inputs ↔
      t.src = s.src ∧ t.srcLen = s.srcLen ∧ t.zlist = s.zlist ∧ t.params = s.params ∧ t.resets = s.resets ∧
      t.freeReads = s.freeReads ∧ t.hostMoves = s.hostMoves ∧ t.hostData = s.hostData := by
  simp [State.inputs]

@[simp] theorem enterFault_inputs (s : State) (r : Raise) : (s.enterFault r).inputs = s.inputs := rfl
@[simp] theorem loadMarker_inputs (s : State) : s.loadMarker.inputs = s.inputs := rfl
@[simp] theorem takeBit_inputs (s : State) : s.takeBit.inputs = s.inputs := rfl
@[simp] theorem advanceSource_inputs (s : State) : s.advanceSource.inputs = s.inputs := rfl
@[simp] theorem appendOut_inputs (s : State) (v : Byte) : (s.appendOut v).inputs = s.inputs := rfl
@[simp] theorem finish_inputs (s : State) : s.finish.inputs = s.inputs := rfl
@[simp] theorem openBlock_inputs (s : State) : s.openBlock.inputs = s.inputs := rfl
@[simp] theorem enterTokens_inputs (s : State) : s.enterTokens.inputs = s.inputs := rfl
@[simp] theorem closeBlock_inputs (s : State) : s.closeBlock.inputs = s.inputs := rfl

/-- No micro-operation of a token writes the inputs `x` (20_memory.md R60, R75). -/
theorem tokenRule_inputs (x : Inputs) :
    TokenRule (fun s => s.engine = .busy ∧ s.inputs = x) (fun s => s.inputs = x) fun _ s => s.inputs = x where
  busy h := h.1
  takes_bit {s} h := by
    rcases nextBit_cases s with ⟨_, e⟩ | ⟨_, _, e⟩ | ⟨_, _, e⟩ <;> rw [e] <;> simp [h]
  takes_byte {s} h := by
    rcases srcByte_cases s with ⟨_, e⟩ | ⟨_, e⟩ <;> rw [e] <;> simp [h]
  emits {s} h v := by
    rcases emit_cases v s with ⟨_, e⟩ | ⟨_, _, e⟩ | ⟨_, _, e⟩ <;> rw [e] <;> simp [h]
  refuses_copy h _ := h.2
  closes {s} h := by
    rcases blockEnd_cases s with ⟨_, e⟩ | ⟨_, e⟩ <;> rw [e] <;> simp [h]
  ends h := h.2

theorem blockBegin_inputs (s : State) :
    Yields (fun t => t.inputs = s.inputs) (fun _ t => t.inputs = s.inputs) (blockBegin s) := by
  rcases blockBegin_cases s with ⟨_, e⟩ | ⟨_, _, e⟩ | ⟨_, _, _, e⟩ | ⟨_, _, _, e⟩ <;> rw [e] <;> simp

/-- What an operation leaves of the inputs where it answers or raises, fault entry leaves too. -/
theorem inputs_of_settled {x : Inputs}
    (h : t.inputs = x ∨ ∃ (r : Raise) (u : State), u.inputs = x ∧ t = u.enterFault r) : t.inputs = x := by
  rcases h with ht | ⟨r, u, hu, rfl⟩
  · exact ht
  · rw [enterFault_inputs, hu]

/-- No step of the engine writes an input. -/
theorem engineStep_inputs (h : engineStep s = .next t) : t.inputs = s.inputs := by
  rcases engineStep_cases s with ⟨_, e⟩ | ⟨_, _, e⟩ | ⟨hb, _, e⟩ <;> rw [e] at h
  · cases h; rfl
  · exact inputs_of_settled ((blockBegin_inputs s).settle_cases h)
  · exact inputs_of_settled ((tokenRule_inputs s.inputs).tokenStep ⟨hb, rfl⟩ h)

/-! ### The same step over another source space -/

/-- The state with another source space. -/
def State.withSource (s : State) (src : Memory) : State := { s with src := src }

/-- A micro-operation's answer with the source space replaced. -/
def overSource {α : Type} (src : Memory) : Micro α → Micro α
  | .ok a t => .ok a (t.withSource src)
  | .stop r t => .stop r (t.withSource src)

@[simp] theorem withSource_engine (s : State) : (s.withSource src).engine = s.engine := rfl
@[simp] theorem withSource_outAt (s : State) (i : Nat) : (s.withSource src).outAt i = s.outAt i := rfl
@[simp] theorem withSource_takeBit (s : State) : (s.withSource src).takeBit = s.takeBit.withSource src := rfl

/-! The token's rule reads no source byte at all, so it does the same over any source space. -/

theorem emit_withSource (v : Byte) (s : State) : emit v (s.withSource src) = overSource src (emit v s) := by
  rcases emit_cases v s with ⟨full, e⟩ | ⟨room, full, e⟩ | ⟨room, room', e⟩ <;> rw [e]
  · exact if_pos full
  · exact (if_neg room.not_ge).trans (if_pos full)
  · exact (if_neg room.not_ge).trans (if_neg room'.not_ge)

theorem copyBytes_withSource (length start : Nat) (s : State) :
    copyBytes length start (s.withSource src) = overSource src (copyBytes length start s) := by
  induction length generalizing start s with
  | zero => rfl
  | succ n ih =>
    rw [copyBytes_succ, copyBytes_succ, withSource_outAt, emit_withSource]
    cases emit (s.outAt start) s with
    | ok _ t => exact ih (start + 1) t
    | stop r t => rfl

theorem copy_withSource (offset length : Word) (s : State) :
    copy offset length (s.withSource src) = overSource src (copy offset length s) := by
  unfold copy
  rw [apply_ite (overSource src), ← copyBytes_withSource]
  rfl

theorem blockEnd_withSource (s : State) : blockEnd (s.withSource src) = overSource src (blockEnd s) := by
  rcases blockEnd_cases s with ⟨all, e⟩ | ⟨other, e⟩ <;> rw [e]
  · exact if_pos all
  · exact if_neg other

/-- An operation that does the same over `src` ends its step the same. -/
theorem settle_withSource {m m' : Micro Unit} (same : m' = overSource src m) (h : settle m = .next t) :
    settle m' = .next (t.withSource src) := by
  subst same
  cases m with
  | ok _ u => cases h; rfl
  | stop r u => cases h; rfl

theorem exec_withSource (i : Instr) (h : exec i s = .next t) :
    exec i (s.withSource src) = .next (t.withSource src) := by
  cases i with
  | lit v => exact settle_withSource (emit_withSource v s) h
  | scopy a b v => exact settle_withSource (copy_withSource _ _ s) h
  | lcopy lo hi => exact settle_withSource (copy_withSource _ _ s) h
  | xcopy lo hi n => exact settle_withSource (copy_withSource _ _ s) h
  | eos lo hi => exact settle_withSource (blockEnd_withSource s) h
  | start =>
    simp only [exec, execStart, withSource_engine] at h ⊢
    cases he : s.engine <;> rw [he] at h <;> cases h <;> rfl

/-! Taking a token reads SRC from `SP` on and below `BLK_SRC_LIMIT`. -/

/-- `src` gives the bytes of SRC from `SP` up to below `BLK_SRC_LIMIT` (20_memory.md R70). -/
def SameAhead (src : Memory) (s : State) : Prop :=
  ∀ i, s.sp.toNat ≤ i → i < s.blkSrcLimit.toNat → (s.withSource src).srcAt i = s.srcAt i

/-- The window ahead only shrinks when `SP` moves forward. -/
theorem SameAhead.moveCursor (h : SameAhead src s) (w : Marker) (c : BitVec 5) {sp : Word} (l : Bool)
    (forward : s.sp.toNat ≤ sp.toNat) :
    SameAhead src { s with window := w, count := c, sp := sp, cursorLoaded := l } :=
  fun i hi => h i (forward.trans hi)

theorem SameAhead.takeBit (h : SameAhead src s) : SameAhead src s.takeBit := h.moveCursor _ _ _ le_rfl

theorem SameAhead.loadMarker (h : SameAhead src s) (room : s.sp.toNat + 2 ≤ s.blkSrcLimit.toNat) :
    SameAhead src s.loadMarker :=
  h.moveCursor _ _ _ ((Nat.le_add_right _ 2).trans (loadMarker_sp_toNat room).ge)

theorem SameAhead.advanceSource (h : SameAhead src s) (room : s.sp.toNat < s.blkSrcLimit.toNat) :
    SameAhead src s.advanceSource := by
  refine h.moveCursor _ _ _ ?_
  have := s.blkSrcLimit.isLt
  rw [BitVec.toNat_add, BitVec.toNat_ofNat, Nat.mod_eq_of_lt (by omega)]
  omega

/-- The marker word is read from the two bytes at `SP`, both below the limit (40_bitstream_reader.md R121). -/
theorem SameAhead.loadMarker_withSource (h : SameAhead src s) (room : s.sp.toNat + 2 ≤ s.blkSrcLimit.toNat) :
    (s.withSource src).loadMarker = s.loadMarker.withSource src := by
  have byte0 := h s.sp.toNat le_rfl (by omega)
  have byte1 := h (s.sp.toNat + 1) (by omega) (by omega)
  have word : (s.withSource src).loadMarker.window = s.loadMarker.window := congrArg₂ markerWord byte0 byte1
  exact congrArg (fun w => { s.loadMarker.withSource src with window := w }) word

theorem reload_of_room (room : s.sp.toNat + 2 ≤ s.blkSrcLimit.toNat) : reload s = .ok () s.loadMarker :=
  if_neg room.not_gt

theorem reload_of_short (short : s.blkSrcLimit.toNat < s.sp.toNat + 2) :
    reload s = .stop ⟨.sourceTruncated, 0#32⟩ s := if_pos short

/-- NextBit (40_bitstream_reader.md R123) over `src`: the same bit, the same cursor, and the window ahead still
the same. -/
theorem SameAhead.nextBit (h : SameAhead src s) :
    nextBit (s.withSource src) = overSource src (nextBit s) ∧
    Yields (SameAhead src) (fun _ _ => True) (nextBit s) := by
  rcases nextBit_cases s with ⟨more, e⟩ | ⟨empty, room, e⟩ | ⟨empty, short, e⟩ <;> rw [e]
  · exact ⟨if_neg more, yields_ok.mpr h.takeBit⟩
  · refine ⟨(if_pos empty).trans ?_, yields_ok.mpr (h.takeBit.loadMarker room)⟩
    rw [withSource_takeBit, reload_of_room (s := s.takeBit.withSource src) room,
      h.takeBit.loadMarker_withSource room]
    rfl
  · refine ⟨(if_pos empty).trans ?_, yields_stop.mpr trivial⟩
    rw [withSource_takeBit, reload_of_short (s := s.takeBit.withSource src) short]
    rfl

/-- SrcByte (40_bitstream_reader.md R124) over `src`. -/
theorem SameAhead.srcByte (h : SameAhead src s) :
    srcByte (s.withSource src) = overSource src (srcByte s) ∧
    Yields (SameAhead src) (fun _ _ => True) (srcByte s) := by
  rcases srcByte_cases s with ⟨room, e⟩ | ⟨short, e⟩ <;> rw [e]
  · refine ⟨(if_neg room.not_ge).trans ?_, yields_ok.mpr (h.advanceSource room)⟩
    exact congrArg (Reading.ok · (s.advanceSource.withSource src)) (h s.sp.toNat le_rfl room)
  · exact ⟨if_pos short, yields_stop.mpr trivial⟩

/-- An operation that does the same over `src` answers alike or stops alike, as `readToken_related` asks. -/
theorem related_of_overSource {α : Type} {m m' : Micro α}
    (h : m' = overSource src m ∧ Yields (SameAhead src) (fun _ _ => True) m) :
    (∃ a u v, m = .ok a u ∧ m' = .ok a v ∧ v = u.withSource src ∧ SameAhead src u) ∨
    ∃ e e' u v, m = .stop e u ∧ m' = .stop e' v ∧ e' = e ∧ v = u.withSource src := by
  obtain ⟨rfl, ahead⟩ := h
  cases m with
  | ok a u => exact .inl ⟨a, u, _, rfl, rfl, rfl, ahead.1 a u rfl⟩
  | stop r u => exact .inr ⟨r, r, u, _, rfl, rfl, rfl, rfl⟩

/-- Taking a token (41_token_decode.md R140) over `src`. -/
theorem SameAhead.fetchToken (h : SameAhead src s) :
    fetchToken (s.withSource src) = overSource src (fetchToken s) := by
  have related := readToken_related (fun s s' => s' = s.withSource src ∧ SameAhead src s)
    (fun (r : Raise) s (r' : Raise) s' => r' = r ∧ s' = s.withSource src)
    (bit := Machine.nextBit) (byte := Machine.srcByte) (bit' := Machine.nextBit) (byte' := Machine.srcByte)
    (fun _ _ ⟨same, ahead⟩ => same ▸ related_of_overSource ahead.nextBit)
    (fun _ _ ⟨same, ahead⟩ => same ▸ related_of_overSource ahead.srcByte)
    ⟨rfl, h⟩
  unfold Machine.fetchToken
  rcases related with ⟨i, u, _, e, e', rfl, _⟩ | ⟨r, _, u, _, e, e', rfl, rfl⟩ <;> rw [e, e'] <;> rfl

/-- In `BUSY` and phase `TOKEN` the engine's step is TokenStep (43_block_chainer.md R172). -/
theorem engineStep_of_token (hb : s.engine = .busy) (hp : s.phase = .token) : engineStep s = tokenStep s := by
  rw [engineStep, if_pos hb, hp]

/-- TokenStep over `src`: the fetch is the same, and what follows it reads no source byte. -/
theorem SameAhead.tokenStep (h : SameAhead src s) (ht : tokenStep s = .next t) :
    tokenStep (s.withSource src) = .next (t.withSource src) := by
  rw [Machine.tokenStep, h.fetchToken]
  rcases tokenStep_cases s with ⟨i, u, hf, e⟩ | ⟨r, u, hf, e⟩ <;> rw [e] at ht <;> rw [hf]
  · exact exec_withSource i ht
  · cases ht; rfl

end Sys2Proof.Machine

open Sys2Proof Sys2Proof.Machine

/-- Settles O23: the fetch reads only the window ahead, and the token's rule reads no source byte. -/
theorem tokenStepReadsOnlyItsWindow : Obligations.TokenStepReadsOnlyItsWindow := by
  intro s t src hb hp same h
  have ahead : SameAhead src s := same
  rw [engineStep_of_token hb hp] at h
  exact (engineStep_of_token (s := s.withSource src) hb hp).trans (ahead.tokenStep h)

/-- Settles O24: the inputs as one record, which every step of the engine keeps. -/
theorem engineWritesNoneOfItsInputs : Obligations.EngineWritesNoneOfItsInputs :=
  fun _ _ h => inputs_eq_iff.mp (engineStep_inputs h)
end

/-! ## A token is its control bits, then its raw bytes (30_encoding.md R91, R99) -/

section
namespace Sys2Proof

open Machine (readToken_eq_ok readShort_eq_ok readLong_eq_ok)

variable {ε σ α : Type} {bit : σ → Reading ε σ Bool} {byte : σ → Reading ε σ Byte} {s t : σ} {i : Instr}

/-- Reading the items of the list one after the other leads from `s` to `t`. -/
def Takes (read : σ → Reading ε σ α) : List α → σ → σ → Prop
  | [], s, t => s = t
  | x :: xs, s, t => ∃ u, read s = .ok x u ∧ Takes read xs u t

@[simp] theorem takes_nil {read : σ → Reading ε σ α} : Takes read [] s t ↔ s = t := Iff.rfl

@[simp] theorem takes_cons {read : σ → Reading ε σ α} {x : α} {xs : List α} :
    Takes read (x :: xs) s t ↔ ∃ u, read s = .ok x u ∧ Takes read xs u t := Iff.rfl

/-- The decision table of 30_encoding.md R105, for any source of bits and bytes: a token is read exactly when it is
well-formed and the source gives its control bits, then its raw bytes. -/
theorem readToken_iff_takes :
    readToken bit byte s = .ok i t ↔
      i.wellFormed = true ∧ ∃ spelling u, encode i = .token spelling ∧ Takes bit spelling.control s u ∧
        Takes byte spelling.raw u t := by
  rw [readToken_eq_ok]
  constructor
  · rintro (⟨u, v, hb, hv, rfl⟩ | ⟨s1, s2, h1, h2, h⟩ | ⟨s1, s2, h1, h2, h⟩)
    · exact ⟨rfl, _, u, rfl, ⟨u, hb, rfl⟩, t, hv, rfl⟩
    · obtain ⟨a, s3, b, s4, v, ha, hb, hv, rfl⟩ := readShort_eq_ok.mp h
      exact ⟨rfl, _, s4, rfl, ⟨s1, h1, s2, h2, s3, ha, s4, hb, rfl⟩, t, hv, rfl⟩
    · have control : Takes bit [false, true] s s2 := ⟨s1, h1, s2, h2, rfl⟩
      obtain ⟨lo, s3, hi, s4, hlo, hhi, ⟨he, rfl, rfl⟩ | ⟨he, n, hn, ⟨rfl, rfl⟩ | ⟨hz, rfl⟩⟩⟩ := readLong_eq_ok.mp h
      · exact ⟨by simp [Instr.wellFormed, he], _, s2, rfl, control, s3, hlo, s4, hhi, rfl⟩
      · exact ⟨he, _, s2, rfl, control, s3, hlo, s4, hhi, t, hn, rfl⟩
      · exact ⟨by simp [Instr.wellFormed, he, hz], _, s2, rfl, control, s3, hlo, s4, hhi, t, hn, rfl⟩
  · rintro ⟨wf, spelling, u, e, control, raw⟩
    cases i with
    | lit v =>
      cases e
      obtain ⟨_, h1, rfl⟩ := control
      obtain ⟨_, hv, rfl⟩ := raw
      exact .inl ⟨_, v, h1, hv, rfl⟩
    | scopy a b v =>
      cases e
      obtain ⟨s1, h1, s2, h2, s3, ha, _, hb, rfl⟩ := control
      obtain ⟨_, hv, rfl⟩ := raw
      exact .inr (.inl ⟨s1, s2, h1, h2, readShort_eq_ok.mpr ⟨a, s3, b, _, v, ha, hb, hv, rfl⟩⟩)
    | lcopy lo hi =>
      cases e
      obtain ⟨s1, h1, _, h2, rfl⟩ := control
      obtain ⟨s3, hlo, _, hhi, rfl⟩ := raw
      exact .inr (.inr ⟨s1, _, h1, h2, readLong_eq_ok.mpr
        ⟨lo, s3, hi, _, hlo, hhi, .inl ⟨by simpa [Instr.wellFormed] using wf, rfl, rfl⟩⟩⟩)
    | xcopy lo hi n =>
      cases e
      obtain ⟨s1, h1, _, h2, rfl⟩ := control
      obtain ⟨s3, hlo, s4, hhi, _, hn, rfl⟩ := raw
      obtain ⟨he, hz⟩ : isEscape hi = true ∧ n ≠ 0#8 := by simpa [Instr.wellFormed] using wf
      exact .inr (.inr ⟨s1, _, h1, h2, readLong_eq_ok.mpr
        ⟨lo, s3, hi, s4, hlo, hhi, .inr ⟨he, n, hn, .inr ⟨hz, rfl⟩⟩⟩⟩)
    | eos lo hi =>
      cases e
      obtain ⟨s1, h1, _, h2, rfl⟩ := control
      obtain ⟨s3, hlo, s4, hhi, _, hn, rfl⟩ := raw
      exact .inr (.inr ⟨s1, _, h1, h2, readLong_eq_ok.mpr
        ⟨lo, s3, hi, s4, hlo, hhi, .inr ⟨wf, 0#8, hn, .inl ⟨rfl, rfl⟩⟩⟩⟩)
    | start => cases e

/-- Only well-formed tokens are read (30_encoding.md R100). -/
theorem wellFormed_of_readToken (h : readToken bit byte s = .ok i t) : i.wellFormed = true ∧ i ≠ .start := by
  obtain ⟨wf, _, _, e, -⟩ := readToken_iff_takes.mp h
  exact ⟨wf, by rintro rfl; cases e⟩

/-! ### Spellings -/

theorem takes_spelling_control {bits : List Bool} {s t : Spelling} :
    Takes Spelling.nextBit bits s t ↔ s = ⟨bits ++ t.control, t.raw⟩ := by
  induction bits generalizing s with
  | nil => rfl
  | cons b bits ih =>
    obtain ⟨control, raw⟩ := s
    cases control with
    | nil => simp [Spelling.nextBit]
    | cons c control => simp [Spelling.nextBit, ih, and_assoc]

theorem takes_spelling_raw {bytes : List Byte} {s t : Spelling} :
    Takes Spelling.nextByte bytes s t ↔ s = ⟨t.control, bytes ++ t.raw⟩ := by
  induction bytes generalizing s with
  | nil => rfl
  | cons v bytes ih =>
    obtain ⟨control, raw⟩ := s
    cases raw with
    | nil => simp [Spelling.nextByte]
    | cons c raw => simp [Spelling.nextByte, ih, and_left_comm]

/-- A spelling decodes to exactly the well-formed token whose bits and bytes stand at its head, and the rest is left. -/
theorem decodeSpelling_iff {s left : Spelling} :
    decodeSpelling s = .ok i left ↔
      i.wellFormed = true ∧ ∃ spelling, encode i = .token spelling ∧
        s = ⟨spelling.control ++ left.control, spelling.raw ++ left.raw⟩ := by
  simp [decodeSpelling, readToken_iff_takes, takes_spelling_control, takes_spelling_raw]

/-- Four control bits and three raw bytes are enough for every token (30_encoding.md R91, R100). -/
theorem decodeSpelling_answers {control : List Bool} {raw : List Byte} (hc : 4 ≤ control.length)
    (hr : 3 ≤ raw.length) : ∃ i left, decodeSpelling ⟨control, raw⟩ = .ok i left := by
  obtain ⟨c0, c1, c2, c3, control, rfl⟩ : ∃ c0 c1 c2 c3 rest, control = c0 :: c1 :: c2 :: c3 :: rest := by
    match control, hc with
    | c0 :: c1 :: c2 :: c3 :: rest, _ => exact ⟨c0, c1, c2, c3, rest, rfl⟩
  obtain ⟨lo, hi, n, raw, rfl⟩ : ∃ lo hi n rest, raw = lo :: hi :: n :: rest := by
    match raw, hr with
    | lo :: hi :: n :: rest, _ => exact ⟨lo, hi, n, rest, rfl⟩
  cases c0 with
  | true => exact ⟨.lit lo, _, rfl⟩
  | false =>
    cases c1 with
    | false => exact ⟨.scopy c2 c3 lo, _, rfl⟩
    | true =>
      cases he : isEscape hi with
      | false =>
        exact ⟨.lcopy lo hi, ⟨c2 :: c3 :: control, n :: raw⟩,
          decodeSpelling_iff.mpr ⟨by simp [Instr.wellFormed, he], _, rfl, rfl⟩⟩
      | true =>
        rcases em (n = 0#8) with hn | hn
        · exact ⟨.eos lo hi, ⟨c2 :: c3 :: control, raw⟩, decodeSpelling_iff.mpr ⟨he, _, rfl, by rw [hn]; rfl⟩⟩
        · exact ⟨.xcopy lo hi n, ⟨c2 :: c3 :: control, raw⟩,
            decodeSpelling_iff.mpr ⟨by simp [Instr.wellFormed, he, hn], _, rfl, rfl⟩⟩

end Sys2Proof

open Sys2Proof Sys2Proof.Machine

/-- Settles O3: the decision table reads well-formed tokens alone, and none of its cases needs more than four control bits
and three raw bytes. -/
theorem everySpellingDecodes : Obligations.EverySpellingDecodes := by
  refine ⟨fun control raw hc hr => ?_, fun _ _ _ => wellFormed_of_readToken,
    fun s r t h => ((fetchToken_frame s).2 r t h).1⟩
  obtain ⟨i, left, h⟩ := decodeSpelling_answers hc hr
  obtain ⟨wf, spelling, e, hs⟩ := decodeSpelling_iff.mp h
  obtain ⟨hcontrol, hraw⟩ := Spelling.mk.inj hs
  exact ⟨i, spelling, left, h, wf, e, hcontrol, hraw⟩

/-- Settles O2: a token's own spelling is at the head of any longer material, also of nothing more. -/
theorem decodeOfEncodeIsTheInstruction : Obligations.DecodeOfEncodeIsTheInstruction := by
  intro i wf
  have extended : ∀ spelling, encode i = .token spelling → ∀ moreBits moreBytes,
      decodeSpelling ⟨spelling.control ++ moreBits, spelling.raw ++ moreBytes⟩ = .ok i ⟨moreBits, moreBytes⟩ :=
    fun spelling e _ _ => decodeSpelling_iff.mpr ⟨wf, spelling, e, rfl⟩
  refine ⟨?_, extended⟩
  cases e : encode i with
  | token spelling =>
    have alone := extended spelling e [] []
    simp only [List.append_nil] at alone
    simp [decode, alone]
  | command code =>
    cases i with
    | start => cases e; rfl
    | _ => cases e

/-- Settles O1 by evaluating the decoder on each word. -/
theorem sampleWordsDecode : Obligations.SampleWordsDecode :=
  ⟨rfl, rfl, rfl, rfl, rfl, rfl, rfl, rfl, rfl, rfl, rfl, rfl⟩
end

/-! ## The machine's fetch and the byte stream of a block (30_encoding.md R97) -/

section
namespace Sys2Proof.Machine

variable {s : State}

@[simp] theorem takeBit_bytesLeft (s : State) : s.takeBit.bytesLeft = s.bytesLeft := rfl

/-- At the end of the block's window nothing is left (10_state.md R23). -/
theorem bytesLeft_of_end (h : s.blkSrcLimit.toNat ≤ s.sp.toNat) : s.bytesLeft = [] := by
  simp [State.bytesLeft, Nat.sub_eq_zero_of_le h]

/-- `SP` after a raw byte, when one remains (40_bitstream_reader.md R124). -/
theorem advanceSource_sp_toNat (h : s.sp.toNat < s.blkSrcLimit.toNat) :
    s.advanceSource.sp.toNat = s.sp.toNat + 1 := by
  have := s.blkSrcLimit.isLt
  rw [advanceSource_sp, BitVec.toNat_add, BitVec.toNat_ofNat, Nat.mod_eq_of_lt (by omega)]

/-- Before its end, the byte at `SP` is the next one (40_bitstream_reader.md R124). -/
theorem bytesLeft_of_room (h : s.sp.toNat < s.blkSrcLimit.toNat) :
    s.bytesLeft = s.srcAt s.sp.toNat :: s.advanceSource.bytesLeft := by
  have count : s.blkSrcLimit.toNat - s.sp.toNat = s.blkSrcLimit.toNat - (s.sp.toNat + 1) + 1 := by omega
  have byte (i : Nat) : s.srcAt (s.sp.toNat + i.succ) = s.advanceSource.srcAt (s.sp.toNat + 1 + i) :=
    congrArg s.srcAt (by omega)
  unfold State.bytesLeft
  rw [count, List.range_succ_eq_map, List.map_cons, List.map_map, advanceSource_sp_toNat h]
  exact congrArg _ (List.map_congr_left fun i _ => byte i)

/-- With room for a marker word, its two bytes are the next ones (40_bitstream_reader.md R121). -/
theorem bytesLeft_of_marker (h : s.sp.toNat + 2 ≤ s.blkSrcLimit.toNat) :
    s.bytesLeft = s.srcAt s.sp.toNat :: s.srcAt (s.sp.toNat + 1) :: s.loadMarker.bytesLeft := by
  have hsp := advanceSource_sp_toNat (s := s) (by omega)
  have two : s.advanceSource.advanceSource.bytesLeft = s.loadMarker.bytesLeft := by
    have sp : s.advanceSource.advanceSource.sp = s.loadMarker.sp := by simp [BitVec.add_assoc]
    simp only [State.bytesLeft, sp]
    rfl
  rw [bytesLeft_of_room (by omega), bytesLeft_of_room (s := s.advanceSource) (by rw [hsp]; exact h), two, hsp]
  rfl

@[simp] theorem bytesLeft_length (s : State) : s.bytesLeft.length = s.blkSrcLimit.toNat - s.sp.toNat := by
  simp [State.bytesLeft]

/-- Reload of the byte stream with less than a marker word left (40_bitstream_reader.md R121). -/
theorem streamReload_of_short {b : BitStream} (h : b.bytes.length < 2) : b.reload = .stop .markerMissing b := by
  obtain ⟨window, count, bytes⟩ := b
  match bytes, h with
  | [], _ => rfl
  | [_], _ => rfl

/-- Reload in the machine is Reload of the byte stream. -/
theorem reload_stream (s : State) :
    (reload s = .ok () s.loadMarker ∧ s.stream.reload = .ok () s.loadMarker.stream) ∨
    (reload s = .stop ⟨.sourceTruncated, 0#32⟩ s ∧ s.stream.reload = .stop .markerMissing s.stream) := by
  rcases reload_cases s with ⟨room, e⟩ | ⟨short, e⟩
  · refine .inl ⟨e, ?_⟩
    rw [State.stream, bytesLeft_of_marker room]
    rfl
  · refine .inr ⟨e, streamReload_of_short ?_⟩
    simp only [State.stream, bytesLeft_length]
    omega

/-- NextBit in the machine is NextBit of the byte stream (40_bitstream_reader.md R123). -/
theorem nextBit_stream (s : State) :
    (∃ a t, nextBit s = .ok a t ∧ s.stream.nextBit = .ok a t.stream) ∨
    ∃ t, nextBit s = .stop ⟨.sourceTruncated, 0#32⟩ t ∧ s.stream.nextBit = .stop .markerMissing t.stream := by
  have same : s.stream.nextBit =
      if s.takeBit.count = 0#5 then s.takeBit.stream.reload.andThen fun _ b => .ok (s.window.getLsbD 0) b
      else .ok (s.window.getLsbD 0) s.takeBit.stream := rfl
  rw [same, nextBit]
  by_cases empty : s.takeBit.count = 0#5
  · rw [if_pos empty, if_pos empty]
    rcases reload_stream s.takeBit with ⟨e, e'⟩ | ⟨e, e'⟩ <;> rw [e, e']
    · exact .inl ⟨_, _, rfl, rfl⟩
    · exact .inr ⟨_, rfl, rfl⟩
  · rw [if_neg empty, if_neg empty]
    exact .inl ⟨_, _, rfl, rfl⟩

/-- SrcByte in the machine takes the next byte of the byte stream (40_bitstream_reader.md R124). -/
theorem srcByte_stream (s : State) :
    (∃ v t, srcByte s = .ok v t ∧ s.stream.nextByte = .ok v t.stream) ∨
    ∃ t, srcByte s = .stop ⟨.sourceTruncated, 0#32⟩ t ∧ s.stream.nextByte = .stop .rawByteMissing t.stream := by
  rcases srcByte_cases s with ⟨room, e⟩ | ⟨short, e⟩
  · refine .inl ⟨_, _, e, ?_⟩
    rw [State.stream, bytesLeft_of_room room]
    rfl
  · refine .inr ⟨_, e, ?_⟩
    simp [State.stream, bytesLeft_of_end short, BitStream.nextByte]

/-- The simulation: fetching a token is decoding the next one of the byte stream, answer for answer and stop for stop
(41_token_decode.md R140). -/
theorem fetchToken_stream (s : State) :
    (∃ i t, fetchToken s = .ok i t ∧ decodeNext s.stream = .ok i t.stream) ∨
    ∃ e t, fetchToken s = .stop ⟨.sourceTruncated, 0#32⟩ t ∧ decodeNext s.stream = .stop e t.stream := by
  have related := readToken_related (fun (s : State) b => b = s.stream)
    (fun (r : Raise) (s : State) (_ : DecodeError) b => r = ⟨.sourceTruncated, 0#32⟩ ∧ b = s.stream)
    (bit := nextBit) (byte := srcByte) (bit' := BitStream.nextBit) (byte' := BitStream.nextByte)
    (by
      rintro s _ rfl
      rcases nextBit_stream s with ⟨a, t, e, e'⟩ | ⟨t, e, e'⟩
      · exact .inl ⟨a, t, _, e, e', rfl⟩
      · exact .inr ⟨_, _, t, _, e, e', rfl, rfl⟩)
    (by
      rintro s _ rfl
      rcases srcByte_stream s with ⟨a, t, e, e'⟩ | ⟨t, e, e'⟩
      · exact .inl ⟨a, t, _, e, e', rfl⟩
      · exact .inr ⟨_, _, t, _, e, e', rfl, rfl⟩)
    (rfl : s.stream = s.stream)
  rcases related with ⟨i, t, _, e, e', rfl⟩ | ⟨_, e', t, _, h, h', rfl, rfl⟩
  · exact .inl ⟨i, t, e, e'⟩
  · exact .inr ⟨e', t, h, h'⟩

end Sys2Proof.Machine

open Sys2Proof Sys2Proof.Machine

/-- Settles O6, by the simulation of the byte stream's decoder by the fetch. -/
theorem fetchRefinesTheStreamDecoder : Obligations.FetchRefinesTheStreamDecoder := by
  intro s
  rcases fetchToken_stream s with ⟨i, t, h, h'⟩ | ⟨e, t, h, h'⟩ <;> rw [h, h']
  · exact ⟨fun _ _ e => (by cases e; exact ⟨t, rfl, rfl⟩), fun _ _ e => by cases e⟩
  · exact ⟨fun _ _ e => (by cases e), fun _ _ e => by cases e; exact ⟨t, rfl, rfl⟩⟩
end

/-! ## The packing procedure and the byte stream of a block (30_encoding.md R107)

The packer goes back to a marker word until its 16 bits are placed; what it will not touch again is what the decoder has
read. So each put is undone by the matching read from every finished block that agrees with the packer on that part. -/

section
namespace Sys2Proof

/-! ### Marker words -/

theorem markerWord_getLsbD (byte0 byte1 : Byte) (j : Nat) :
    (markerWord byte0 byte1).getLsbD j = if j < 8 then byte0.getLsbD j else byte1.getLsbD (j - 8) := by
  by_cases h : j < 8
  · simp [markerWord, h]
    omega
  · have beyond : byte0.getLsbD j = false := BitVec.getLsbD_of_ge _ _ (by omega)
    by_cases h' : j < 16
    · simp [markerWord, h, h', beyond]
    · rw [BitVec.getLsbD_of_ge _ _ (by omega), if_neg h, BitVec.getLsbD_of_ge _ _ (by omega)]

/-- The marker word that stands at place `m` of a block's bytes (20_memory.md R61). -/
def wordAt (bytes : List Byte) (m : Nat) : Marker := markerWord (bytes[m]?.getD 0#8) (bytes[m + 1]?.getD 0#8)

/-- Reload reads the marker word at the next two bytes (40_bitstream_reader.md R121). -/
theorem reload_drop (window : Marker) (count : BitVec 5) {bytes : List Byte} {n : Nat} (h : n + 2 ≤ bytes.length) :
    BitStream.reload ⟨window, count, bytes.drop n⟩ = .ok () ⟨wordAt bytes n, 16#5, bytes.drop (n + 2)⟩ := by
  rw [List.drop_eq_getElem_cons (by omega : n < bytes.length),
    List.drop_eq_getElem_cons (by omega : n + 1 < bytes.length)]
  simp [BitStream.reload, wordAt, (by omega : n < bytes.length), (by omega : n + 1 < bytes.length)]

theorem bitAt_getLsbD (x : Bool) {k : Nat} (hk : k < 8) (j : Nat) : (bitAt x k).getLsbD j = (decide (j = k) && x) := by
  rcases lt_trichotomy j k with h | rfl | h
  · simp [bitAt, h, h.ne]
  · simp [bitAt, hk]
  · have hne : j - k ≠ 0 := by omega
    simp [bitAt, h.ne', hne]

namespace Packer

/-! ### What a put does -/

/-- The bytes with the next control bit placed in the current marker word. -/
def markBit (p : Packer) (x : Bool) : List Byte :=
  if p.used < 8 then p.bytes.modify p.marker (· ||| bitAt x p.used)
  else p.bytes.modify (p.marker + 1) (· ||| bitAt x (p.used - 8))

@[simp] theorem length_markBit (p : Packer) (x : Bool) : (p.markBit x).length = p.bytes.length := by
  unfold markBit
  split <;> simp

theorem getElem?_markBit (p : Packer) (x : Bool) {i : Nat} (h : i ≠ p.marker) (h' : i ≠ p.marker + 1) :
    (p.markBit x)[i]? = p.bytes[i]? := by
  unfold markBit
  split <;> simp [h.symm, h'.symm]

/-- The bit goes into its place of the marker word, over what stands there. -/
theorem wordAt_markBit (p : Packer) (x : Bool) (used : p.used < 16) (fits : p.marker + 2 ≤ p.bytes.length) (j : Nat) :
    (wordAt (p.markBit x) p.marker).getLsbD j =
      ((wordAt p.bytes p.marker).getLsbD j || (decide (j = p.used) && x)) := by
  have h0 : p.marker < p.bytes.length := by omega
  have h1 : p.marker + 1 < p.bytes.length := by omega
  unfold wordAt markBit
  rw [markerWord_getLsbD, markerWord_getLsbD]
  by_cases low : p.used < 8
  · by_cases hj : j < 8
    · simp [low, hj, h0, ← bitAt_getLsbD x low]
    · have hne : j ≠ p.used := by omega
      simp [low, hj, h1, hne]
  · by_cases hj : j < 8
    · have hne : j ≠ p.used := by omega
      simp [low, hj, h0, hne]
    · have same : (j = p.used) = (j - 8 = p.used - 8) := propext (by omega)
      simp [low, hj, h1, same, ← bitAt_getLsbD x (by omega : p.used - 8 < 8)]

theorem putBit_of_room {p : Packer} (x : Bool) (h : p.used + 1 ≠ 16) :
    p.putBit x = ⟨p.markBit x, p.marker, p.used + 1⟩ := if_neg h

/-- With the 16th control bit the next marker word is reserved. -/
theorem putBit_of_last {p : Packer} (x : Bool) (h : p.used + 1 = 16) :
    p.putBit x = ⟨p.markBit x ++ [0#8, 0#8], p.bytes.length, 0⟩ :=
  (if_pos h).trans (congrArg (Packer.mk _ · 0) (p.length_markBit x))

/-! ### The packer's variables -/

/-- The marker word is there and has a place left, and the places left hold 0. -/
structure Wf (p : Packer) : Prop where
  used_lt : p.used < 16
  marker_le : p.marker + 2 ≤ p.bytes.length
  free : ∀ j, p.used ≤ j → (wordAt p.bytes p.marker).getLsbD j = false

theorem wf_initial : Wf initial where
  used_lt := by decide
  marker_le := by decide
  free j _ := by simp [wordAt, initial, markerWord]

variable {p : Packer} {block : List Byte}

theorem Wf.putByte (h : p.Wf) (v : Byte) : (p.putByte v).Wf where
  used_lt := h.used_lt
  marker_le := by simpa [Packer.putByte] using h.marker_le.trans (Nat.le_succ _)
  free j hj := by
    have := h.marker_le
    simp only [Packer.putByte, wordAt, List.getElem?_append_left (by omega : p.marker < p.bytes.length),
      List.getElem?_append_left (by omega : p.marker + 1 < p.bytes.length)]
    exact h.free j hj

theorem Wf.putBit (h : p.Wf) (x : Bool) : (p.putBit x).Wf := by
  by_cases last : p.used + 1 = 16
  · rw [putBit_of_last x last]
    exact ⟨by simp, by simp, fun j _ => by simp [wordAt, markerWord]⟩
  · rw [putBit_of_room x last]
    have := h.used_lt
    refine ⟨by simp only; omega, by simpa using h.marker_le, fun j hj => ?_⟩
    simp only at hj ⊢
    rw [wordAt_markBit p x h.used_lt h.marker_le, h.free j (by omega)]
    have hne : j ≠ p.used := by omega
    simp [hne]

/-! ### Finished blocks -/

/-- `block` holds what the packer has put and will not change: every byte but those of the current marker word, and the
control bits placed in that. -/
structure Fixes (p : Packer) (block : List Byte) : Prop where
  length_le : p.bytes.length ≤ block.length
  byte : ∀ i, i < p.bytes.length → i ≠ p.marker → i ≠ p.marker + 1 → block[i]? = p.bytes[i]?
  bit : ∀ j, j < p.used → (wordAt block p.marker).getLsbD j = (wordAt p.bytes p.marker).getLsbD j

theorem fixes_self (p : Packer) : p.Fixes p.bytes := ⟨le_rfl, fun _ _ _ _ => rfl, fun _ _ => rfl⟩

/-- Where the decoder of `block` stands when it has read what the packer has put. -/
def cursorIn (p : Packer) (block : List Byte) : BitStream where
  window := wordAt block p.marker >>> p.used
  count := BitVec.ofNat 5 (16 - p.used)
  bytes := block.drop p.bytes.length

/-- SrcByte reads what `PutByte` put (40_bitstream_reader.md R124). -/
theorem putByte_reads (h : p.Wf) {v : Byte} (hb : (p.putByte v).Fixes block) :
    p.Fixes block ∧ (p.cursorIn block).nextByte = .ok v ((p.putByte v).cursorIn block) := by
  obtain ⟨length_le, byte, bit⟩ := hb
  simp only [Packer.putByte, List.length_append, List.length_singleton] at length_le byte bit
  have := h.marker_le
  have here : block[p.bytes.length]? = some v := by
    rw [byte _ (by omega) (by omega) (by omega)]
    simp
  refine ⟨⟨by omega, fun i hi h0 h1 => ?_, fun j hj => ?_⟩, ?_⟩
  · rw [byte i (by omega) h0 h1, List.getElem?_append_left hi]
  · rw [bit j hj]
    simp only [wordAt, List.getElem?_append_left (by omega : p.marker < p.bytes.length),
      List.getElem?_append_left (by omega : p.marker + 1 < p.bytes.length)]
  · have drop : block.drop p.bytes.length = v :: block.drop (p.bytes.length + 1) := by
      obtain ⟨hlt, hv⟩ := List.getElem?_eq_some_iff.mp here
      rw [List.drop_eq_getElem_cons hlt, hv]
    simp [cursorIn, BitStream.nextByte, drop, Packer.putByte]

/-- What is put into the marker word is as fixed as the bytes around it. -/
theorem markBit_of_fixes (h : p.Wf) {x : Bool} (hb : (p.putBit x).Fixes block) :
    p.bytes.length ≤ block.length ∧
      (∀ i, i < p.bytes.length → i ≠ p.marker → i ≠ p.marker + 1 → block[i]? = (p.markBit x)[i]?) ∧
      ∀ j, j ≤ p.used → (wordAt block p.marker).getLsbD j = (wordAt (p.markBit x) p.marker).getLsbD j := by
  have := h.marker_le
  by_cases last : p.used + 1 = 16
  · rw [putBit_of_last x last] at hb
    obtain ⟨length_le, byte, -⟩ := hb
    simp only [List.length_append, length_markBit, List.length_cons, List.length_nil] at length_le byte
    have same : ∀ i, i < p.bytes.length → block[i]? = (p.markBit x)[i]? := fun i hi => by
      rw [byte i (by omega) (by omega) (by omega), List.getElem?_append_left (by simpa using hi)]
    refine ⟨by omega, fun i hi _ _ => same i hi, fun j _ => ?_⟩
    rw [wordAt, wordAt, same _ (by omega), same _ (by omega)]
  · rw [putBit_of_room x last] at hb
    obtain ⟨length_le, byte, bit⟩ := hb
    simp only [length_markBit] at length_le byte
    exact ⟨length_le, byte, fun j hj => bit j (Nat.lt_succ_of_le hj)⟩

/-- NextBit reads what `PutBit` put, and finds the marker word that the 16th bit reserved (40_bitstream_reader.md
R123). -/
theorem putBit_reads (h : p.Wf) {x : Bool} (hb : (p.putBit x).Fixes block) :
    p.Fixes block ∧ (p.cursorIn block).nextBit = .ok x ((p.putBit x).cursorIn block) := by
  obtain ⟨length_le, byte, word⟩ := markBit_of_fixes h hb
  have := h.used_lt
  have here : (p.cursorIn block).window.getLsbD 0 = x := by
    rw [cursorIn, BitVec.getLsbD_ushiftRight, Nat.add_zero, word _ le_rfl, wordAt_markBit p x h.used_lt h.marker_le,
      h.free _ le_rfl]
    simp
  have count : (p.cursorIn block).count - 1#5 = BitVec.ofNat 5 (16 - (p.used + 1)) := by
    apply BitVec.eq_of_toNat_eq
    simp [cursorIn]
    omega
  refine ⟨⟨length_le, fun i hi h0 h1 => ?_, fun j hj => ?_⟩, ?_⟩
  · rw [byte i hi h0 h1, getElem?_markBit p x h0 h1]
  · rw [word j hj.le, wordAt_markBit p x h.used_lt h.marker_le]
    simp [hj.ne]
  · rw [BitStream.nextBit, here, count]
    by_cases last : p.used + 1 = 16
    · rw [putBit_of_last x last] at hb ⊢
      have room : p.bytes.length + 2 ≤ block.length := by simpa using hb.length_le
      rw [last, if_pos rfl]
      simp [cursorIn, reload_drop _ _ room]
    · have more : BitVec.ofNat 5 (16 - (p.used + 1)) ≠ 0#5 := by
        intro e
        have := congrArg BitVec.toNat e
        simp at this
        omega
      rw [putBit_of_room x last, if_neg more]
      simp [cursorIn, BitVec.shiftRight_add]

/-! ### Tokens and blocks -/

/-- If a put is undone by a read from every block that fixes it, then so is a list of puts. -/
theorem foldl_reads {α : Type} {put : Packer → α → Packer} {read : BitStream → Reading DecodeError BitStream α}
    {xs : List α} (keeps : ∀ p : Packer, p.Wf → ∀ x ∈ xs, (put p x).Wf)
    (reads : ∀ p : Packer, p.Wf → ∀ x ∈ xs, (put p x).Fixes block →
      p.Fixes block ∧ read (p.cursorIn block) = .ok x ((put p x).cursorIn block))
    (h : p.Wf) (hb : (xs.foldl put p).Fixes block) :
    p.Fixes block ∧ Takes read xs (p.cursorIn block) ((xs.foldl put p).cursorIn block) := by
  induction xs generalizing p with
  | nil => exact ⟨hb, rfl⟩
  | cons x xs ih =>
    obtain ⟨fixed, rest⟩ := ih (fun p hp y hy => keeps p hp y (.tail _ hy)) (fun p hp y hy => reads p hp y (.tail _ hy))
      (keeps p h x (.head _)) hb
    obtain ⟨fixed', first⟩ := reads p h x (.head _) fixed
    exact ⟨fixed', _, first, rest⟩

/-- A list of puts keeps what each put keeps. -/
theorem wf_foldl {α : Type} {put : Packer → α → Packer} {xs : List α}
    (keeps : ∀ p : Packer, p.Wf → ∀ x ∈ xs, (put p x).Wf) (h : p.Wf) : (xs.foldl put p).Wf :=
  List.foldlRecOn xs put h fun p hp x hx => keeps p hp x hx

theorem putToken_eq {i : Instr} {spelling : Spelling} (e : encode i = .token spelling) (p : Packer) :
    p.putToken i = spelling.raw.foldl Packer.putByte (spelling.control.foldl Packer.putBit p) := by
  rw [putToken, e]

/-- Every instruction but START is spelled as a token (30_encoding.md R105). -/
theorem encode_token {i : Instr} (h : i ≠ .start) : ∃ spelling, encode i = .token spelling := by
  cases i with
  | start => exact absurd rfl h
  | _ => exact ⟨_, rfl⟩

theorem Wf.putToken (h : p.Wf) (i : Instr) : (p.putToken i).Wf := by
  unfold Packer.putToken
  cases encode i with
  | token spelling =>
    exact wf_foldl (fun _ hp v _ => hp.putByte v) (wf_foldl (fun _ hp x _ => hp.putBit x) h)
  | command code => exact h

/-- The decoder reads the token that was put (30_encoding.md R107). -/
theorem putToken_reads (h : p.Wf) {i : Instr} (wf : i.wellFormed = true) (hi : i ≠ .start)
    (hb : (p.putToken i).Fixes block) :
    p.Fixes block ∧ decodeNext (p.cursorIn block) = .ok i ((p.putToken i).cursorIn block) := by
  obtain ⟨spelling, e⟩ := encode_token hi
  rw [putToken_eq e] at hb ⊢
  obtain ⟨fixed, raw⟩ := foldl_reads (fun _ hp v _ => hp.putByte v) (fun _ hp _ _ => putByte_reads hp)
    (wf_foldl (fun _ hp x _ => hp.putBit x) h) hb
  obtain ⟨fixed', control⟩ := foldl_reads (fun _ hp x _ => hp.putBit x) (fun _ hp _ _ => putBit_reads hp) h fixed
  exact ⟨fixed', readToken_iff_takes.mpr ⟨wf, spelling, _, e, control, raw⟩⟩

/-- Puts that make at least `k` bytes each. -/
theorem length_foldl_le {α : Type} {put : Packer → α → Packer} {xs : List α} (k : Nat)
    (grows : ∀ p : Packer, ∀ x ∈ xs, p.bytes.length + k ≤ (put p x).bytes.length) (p : Packer) :
    p.bytes.length + xs.length * k ≤ (xs.foldl put p).bytes.length := by
  induction xs generalizing p with
  | nil => simp
  | cons x xs ih =>
    have first := grows p x (.head _)
    have rest := ih (fun p y hy => grows p y (.tail _ hy)) (put p x)
    rw [List.length_cons, Nat.succ_mul, List.foldl_cons]
    omega

theorem length_le_putBit (p : Packer) (x : Bool) : p.bytes.length ≤ (p.putBit x).bytes.length := by
  by_cases last : p.used + 1 = 16
  · simp [putBit_of_last x last]
  · simp [putBit_of_room x last]

/-- Every token takes a raw byte (41_token_decode.md R148). -/
theorem length_lt_putToken (p : Packer) {i : Instr} (hi : i ≠ .start) :
    p.bytes.length + 1 ≤ (p.putToken i).bytes.length := by
  obtain ⟨spelling, e⟩ := encode_token hi
  have raw : 1 ≤ spelling.raw.length := by cases i <;> cases e <;> simp
  have bits := length_foldl_le 0 (xs := spelling.control) (fun p x _ => length_le_putBit p x) p
  have bytes := length_foldl_le 1 (put := Packer.putByte) (xs := spelling.raw)
    (fun p v _ => by simp [Packer.putByte]) (spelling.control.foldl Packer.putBit p)
  rw [putToken_eq e]
  omega

end Packer

/-- Tokens of which the last alone is `EOS` are what the decoder finds in a block (30_encoding.md R104). -/
theorem decodeTokens_of_takes {tokens : List Instr} {lo hi : Byte} {fuel : Nat} {s t : BitStream}
    (noEos : ∀ i ∈ tokens, ∀ lo hi, i ≠ .eos lo hi) (enough : tokens.length < fuel)
    (h : Takes decodeNext (tokens ++ [.eos lo hi]) s t) :
    decodeTokens fuel s = .ok (tokens ++ [.eos lo hi]) t := by
  induction tokens generalizing fuel s with
  | nil =>
    obtain ⟨fuel, rfl⟩ := Nat.exists_eq_succ_of_ne_zero (Nat.ne_of_gt enough)
    obtain ⟨_, e, rfl⟩ := h
    simp [decodeTokens, e]
  | cons i tokens ih =>
    obtain ⟨fuel, rfl⟩ := Nat.exists_eq_succ_of_ne_zero (Nat.ne_of_gt (Nat.zero_lt_of_lt enough))
    obtain ⟨u, e, rest⟩ := h
    have more := ih (fun j hj => noEos j (.tail _ hj)) (Nat.lt_of_succ_lt_succ enough) rest
    have := noEos i (.head _)
    cases i with
    | eos lo hi => exact absurd rfl (this lo hi)
    | _ => simp [decodeTokens, e, more]

end Sys2Proof

open Sys2Proof Sys2Proof.Machine

/-- Settles O5: each token is read where it was put, from the first marker word to the end of the bytes. -/
theorem packedBlockDecodesToItsTokens : Obligations.PackedBlockDecodesToItsTokens := by
  intro tokens lo hi htokens he
  have legal : ∀ i ∈ tokens ++ [Instr.eos lo hi], i.wellFormed = true ∧ i ≠ .start := by
    intro i hi
    rcases List.mem_append.mp hi with hi | hi
    · exact ⟨(htokens i hi).1, (htokens i hi).2.1⟩
    · rw [List.mem_singleton.mp hi]
      exact ⟨he, by simp⟩
  have grown := Packer.length_foldl_le (put := Packer.putToken) 1
    (fun p i hi => Packer.length_lt_putToken p (legal i hi).2) Packer.initial
  obtain ⟨fixed, taken⟩ := Packer.foldl_reads (put := Packer.putToken) (fun _ hp i _ => hp.putToken i)
    (fun _ hp i hi => Packer.putToken_reads hp (legal i hi).1 (legal i hi).2) Packer.wf_initial (Packer.fixes_self _)
  rw [← packBlock, List.length_append, List.length_singleton] at grown
  rw [← packBlock] at fixed taken
  have opened : openBlockStream (packBlock (tokens ++ [Instr.eos lo hi])) = .ok () _ :=
    reload_drop (n := 0) 0#16 0#5 fixed.length_le
  have enough : tokens.length < (packBlock (tokens ++ [Instr.eos lo hi])).length := by omega
  have decoded := decodeTokens_of_takes (fun i hi => (htokens i hi).2.2) enough taken
  exact ⟨_, by rw [decodeBlock, opened]; exact decoded, List.drop_length⟩
end

/-! ## Operands (30_encoding.md R98) and the copies they name (R102, R103) -/

section
namespace Sys2Proof

/-! ### The two halves of `hi` (30_encoding.md R95) -/

theorem lowNibble_toNat (hi : Byte) : (hi &&& 0x0F#8).toNat = hi.toNat % 16 :=
  Nat.and_two_pow_sub_one_eq_mod hi.toNat 4

theorem highNibble_toNat (hi : Byte) : (hi &&& 0xF0#8).toNat = 16 * (hi.toNat / 16) := by
  have apart : (hi &&& 0xF0#8) &&& (hi &&& 0x0F#8) = 0#8 := by
    rw [BitVec.and_assoc, BitVec.and_comm hi 0x0F#8, ← BitVec.and_assoc 0xF0#8]
    simp
  have whole : (hi &&& 0xF0#8) + (hi &&& 0x0F#8) = hi := by
    rw [BitVec.add_eq_or_of_and_eq_zero _ _ apart, ← BitVec.and_or_distrib_left]
    exact BitVec.and_allOnes
  have sum := BitVec.toNat_add_of_and_eq_zero apart
  rw [whole, lowNibble_toNat] at sum
  omega

/-- The escape slot is length field 0 (30_encoding.md R95). -/
theorem isEscape_iff {hi : Byte} : isEscape hi = true ↔ hi.toNat % 16 = 0 := by
  rw [isEscape, beq_iff_eq, ← BitVec.toNat_inj, lowNibble_toNat]
  rfl

theorem isEscape_eq_false_iff {hi : Byte} : isEscape hi = false ↔ hi.toNat % 16 ≠ 0 := by
  rw [← Bool.not_eq_true, isEscape_iff]

namespace Machine

/-! ### Offsets and lengths as numbers -/

/-- A raw byte below a word whose lowest byte is 0. -/
theorem toNat_or_byte {w k : Nat} (hw : 8 ≤ w) {x : BitVec w} (hx : x.toNat = 2 ^ 8 * k) (v : Byte) :
    (x ||| v.setWidth w).toNat = 256 * k + v.toNat := by
  rw [BitVec.toNat_or, BitVec.toNat_setWidth_of_le hw, hx, ← Nat.two_pow_add_eq_or_of_lt v.isLt]

/-- The upper half of `hi` in a wider word. -/
theorem toNat_setWidth_highNibble {w : Nat} (hw : 8 ≤ w) (hi : Byte) :
    (hi.setWidth w &&& (0xF0#8).setWidth w).toNat = 16 * (hi.toNat / 16) := by
  rw [← BitVec.setWidth_and, BitVec.toNat_setWidth_of_le hw, highNibble_toNat]

theorem shortOffset_toNat (v : Byte) : (shortOffset v).toNat = 2 ^ 32 - 256 + v.toNat :=
  toNat_or_byte (k := 0xFFFFFF) (by decide) rfl v

theorem distanceField_toNat (lo hi : Byte) : (distanceField lo hi).toNat = 256 * (hi.toNat / 16) + lo.toNat := by
  refine toNat_or_byte (by decide) ?_ lo
  have := hi.isLt
  rw [BitVec.toNat_shiftLeft, Nat.shiftLeft_eq, show 0xF0#12 = (0xF0#8).setWidth 12 from rfl,
    toNat_setWidth_highNibble (by decide)]
  omega

theorem longOffset_toNat (lo hi : Byte) :
    (longOffset lo hi).toNat = 2 ^ 32 - 4096 + (256 * (hi.toNat / 16) + lo.toNat) := by
  have high : ((hi.setWidth 32 &&& 0xF0#32) <<< 4 - 0x1000#32).toNat = 2 ^ 8 * (2 ^ 24 - 16 + hi.toNat / 16) := by
    have := hi.isLt
    rw [BitVec.toNat_sub, BitVec.toNat_shiftLeft, Nat.shiftLeft_eq, show 0xF0#32 = (0xF0#8).setWidth 32 from rfl,
      toNat_setWidth_highNibble (by decide), BitVec.toNat_ofNat]
    omega
  rw [longOffset, toNat_or_byte (by decide) high]
  omega

theorem shortLength_toNat (a b : Bool) : (shortLength a b).toNat = 2 * a.toNat + b.toNat + 3 := by
  cases a <;> cases b <;> rfl

theorem longLength_toNat (hi : Byte) : (longLength hi).toNat = hi.toNat % 16 + 3 := by
  have low : (hi.setWidth 32 &&& 0x0F#32).toNat = hi.toNat % 16 := by
    rw [show 0x0F#32 = (0x0F#8).setWidth 32 from rfl, ← BitVec.setWidth_and,
      BitVec.toNat_setWidth_of_le (by decide), lowNibble_toNat]
  rw [longLength, BitVec.toNat_add, low, BitVec.toNat_ofNat]
  omega

theorem extLength_toNat (n : Byte) : (extLength n).toNat = n.toNat + 1 := by
  have := n.isLt
  rw [extLength, BitVec.toNat_add, BitVec.toNat_setWidth_of_le (by decide), BitVec.toNat_ofNat]
  omega

/-- The offset of a copy token at a distance (41_token_decode.md R142 to R144). -/
def offsetOf (distance : Nat) : Word := BitVec.ofNat 32 (2 ^ 32 - distance)

theorem offsetOf_toInt {d : Nat} (pos : 1 ≤ d) (le : d ≤ 4096) : (offsetOf d).toInt = -d := by
  rw [offsetOf, BitVec.toInt_eq_toNat_cond, BitVec.toNat_ofNat]
  omega

theorem shortOffset_eq (v : Byte) : shortOffset v = offsetOf (256 - v.toNat) := by
  have := v.isLt
  apply BitVec.eq_of_toNat_eq
  rw [shortOffset_toNat, offsetOf, BitVec.toNat_ofNat]
  omega

theorem longOffset_eq (lo hi : Byte) : longOffset lo hi = offsetOf (4096 - (256 * (hi.toNat / 16) + lo.toNat)) := by
  have := lo.isLt
  have := hi.isLt
  apply BitVec.eq_of_toNat_eq
  rw [longOffset_toNat, offsetOf, BitVec.toNat_ofNat]
  omega

/-- No copy token names a distance of 0 or beyond 4096, or a length below 2 or above 256 (30_encoding.md R103). -/
theorem copyNumbers_range {i : Instr} {d l : Nat} (wf : i.wellFormed = true) (h : copyNumbers i = some (d, l)) :
    1 ≤ d ∧ d ≤ 4096 ∧ 2 ≤ l ∧ l ≤ 256 := by
  cases i with
  | scopy a b v =>
    cases h
    have := v.isLt
    have := a.toNat_le
    have := b.toNat_le
    omega
  | lcopy lo hi =>
    cases h
    have := lo.isLt
    have := hi.isLt
    omega
  | xcopy lo hi n =>
    cases h
    have := lo.isLt
    have := hi.isLt
    have := n.isLt
    have nonzero : n ≠ 0#8 := by
      simp only [Instr.wellFormed, Bool.and_eq_true, bne_iff_ne] at wf
      exact wf.2
    have : n.toNat ≠ 0 := fun e => nonzero (BitVec.eq_of_toNat_eq e)
    omega
  | _ => cases h

/-- The effect of a copy token depends on its distance and its length alone (41_token_decode.md R142 to R144). -/
theorem exec_of_copyNumbers {i : Instr} {d l : Nat} (h : copyNumbers i = some (d, l)) (s : State) :
    exec i s = settle (copy (offsetOf d) (BitVec.ofNat 32 l) s) := by
  cases i with
  | scopy a b v =>
    cases h
    rw [← shortOffset_eq, ← shortLength_toNat, BitVec.ofNat_toNat, BitVec.setWidth_eq]
    rfl
  | lcopy lo hi =>
    cases h
    rw [← longOffset_eq, ← longLength_toNat, BitVec.ofNat_toNat, BitVec.setWidth_eq]
    rfl
  | xcopy lo hi n =>
    cases h
    rw [← longOffset_eq, ← extLength_toNat, BitVec.ofNat_toNat, BitVec.setWidth_eq]
    rfl
  | _ => cases h

/-- Two spellings of one distance and length have one effect (30_encoding.md R102). -/
theorem exec_eq_of_copyNumbers_eq {i j : Instr} {n : Nat × Nat} (hi : copyNumbers i = some n)
    (hj : copyNumbers j = some n) (s : State) : exec i s = exec j s :=
  (exec_of_copyNumbers hi s).trans (exec_of_copyNumbers hj s).symm

/-! ### The spellings of one copy (30_encoding.md R102) -/

theorem copyNumbers_xcopy (lo hi n : Byte) :
    copyNumbers (.xcopy lo hi n) = some (4096 - (256 * (hi.toNat / 16) + lo.toNat), n.toNat + 1) := rfl

theorem copyNumbers_lcopy (lo hi : Byte) :
    copyNumbers (.lcopy lo hi) = some (4096 - (256 * (hi.toNat / 16) + lo.toNat), hi.toNat % 16 + 3) := rfl

/-- `SCOPY` as `XCOPY`. -/
theorem short_as_ext (a b : Bool) (v : Byte) :
    copyNumbers (.xcopy v 0xF0#8 (BitVec.ofNat 8 (2 * a.toNat + b.toNat + 2))) = copyNumbers (.scopy a b v) := by
  have := a.toNat_le
  have := b.toNat_le
  rw [copyNumbers_xcopy, copyNumbers, BitVec.toNat_ofNat, BitVec.toNat_ofNat, Option.some_inj, Prod.mk.injEq]
  omega

/-- `SCOPY` as `LCOPY`; that the slot is the escape slot when both bits are 0 does not matter to the numbers. -/
theorem short_as_long (a b : Bool) (v : Byte) :
    copyNumbers (.lcopy v (BitVec.ofNat 8 (0xF0 + 2 * a.toNat + b.toNat))) = copyNumbers (.scopy a b v) := by
  have := a.toNat_le
  have := b.toNat_le
  rw [copyNumbers_lcopy, copyNumbers, BitVec.toNat_ofNat, Option.some_inj, Prod.mk.injEq]
  omega

/-- `LCOPY` as `XCOPY`. -/
theorem long_as_ext (lo hi : Byte) :
    copyNumbers (.xcopy lo (hi &&& 0xF0#8) (BitVec.ofNat 8 (hi.toNat % 16 + 2))) = copyNumbers (.lcopy lo hi) := by
  rw [copyNumbers_xcopy, copyNumbers_lcopy, highNibble_toNat, BitVec.toNat_ofNat, Option.some_inj, Prod.mk.injEq]
  omega

/-- `XCOPY` alone reaches a length of 2, and a length of 3 beyond distance 256. -/
theorem eq_xcopy_of_copyNumbers {i : Instr} {d l : Nat} (wf : i.wellFormed = true) (h : copyNumbers i = some (d, l))
    (only : l = 2 ∨ l = 3 ∧ 256 < d) : ∃ lo hi n, i = .xcopy lo hi n ∧ n.toNat + 1 = l := by
  cases i with
  | scopy a b v =>
    cases h
    omega
  | lcopy lo hi =>
    have := isEscape_eq_false_iff.mp (by simpa [Instr.wellFormed] using wf)
    cases h
    omega
  | xcopy lo hi n =>
    cases h
    exact ⟨lo, hi, n, rfl, rfl⟩
  | _ => cases h

end Machine
end Sys2Proof

open Sys2Proof Sys2Proof.Machine

/-- Settles O8, from the operands as numbers. -/
theorem operandsAreThoseOfTheTable : Obligations.OperandsAreThoseOfTheTable := by
  refine ⟨fun v => ?_, shortLength_toNat, fun lo hi => ?_, fun hi => ?_, extLength_toNat, fun _ _ _ _ _ => rfl⟩
  · have := v.isLt
    rw [shortOffset_eq, offsetOf_toInt (by omega) (by omega)]
    omega
  · have := lo.isLt
    have := hi.isLt
    rw [longOffset_eq, offsetOf_toInt (by omega) (by omega), distanceField_toNat]
    omega
  · rw [isEscape_iff, isEscape_eq_false_iff, longLength_toNat]
    omega

/-- Settles O10: the spellings name the same distance and length, and no other field values name the two that are
unique. -/
theorem redundantSpellingsAgree : Obligations.RedundantSpellingsAgree := by
  refine ⟨fun a b v s => ⟨exec_eq_of_copyNumbers_eq rfl (short_as_ext a b v) s, ?_⟩,
    fun a b v s hab => ⟨exec_eq_of_copyNumbers_eq rfl (short_as_long a b v) s, ?_⟩,
    fun lo hi s he => ⟨exec_eq_of_copyNumbers_eq rfl (long_as_ext lo hi) s, ?_⟩,
    fun i d wf h hd => ?_, fun i d wf h => ?_⟩
  · cases a <;> cases b <;> rfl
  · cases a <;> cases b <;> cases hab <;> rfl
  · have escape : isEscape (hi &&& 0xF0#8) = true := by
      rw [isEscape_iff, highNibble_toNat, Nat.mul_mod_right]
    have nonzero : BitVec.ofNat 8 (hi.toNat % 16 + 2) ≠ 0#8 := by
      rw [Ne, ← BitVec.toNat_inj, BitVec.toNat_ofNat, BitVec.toNat_ofNat]
      omega
    simp [Instr.wellFormed, escape, nonzero]
  · obtain ⟨lo, hi, n, rfl, hn⟩ := eq_xcopy_of_copyNumbers wf h (.inr ⟨rfl, hd⟩)
    exact ⟨lo, hi, congrArg _ (BitVec.eq_of_toNat_eq (Nat.succ.inj hn))⟩
  · obtain ⟨lo, hi, n, rfl, hn⟩ := eq_xcopy_of_copyNumbers wf h (.inl rfl)
    exact ⟨lo, hi, congrArg _ (BitVec.eq_of_toNat_eq (Nat.succ.inj hn))⟩
end

/-! ## What a completed token adds to the output (30_encoding.md R103, 42_copy_engine.md R161) -/

section
namespace Sys2Proof.Machine

variable {s t : State}

/-- A step that has not entered `FAULT` is its operation's answer (60_exceptions.md R217). -/
theorem ok_of_settle_busy {m : Micro Unit} (h : settle m = .next t) (hb : t.engine = .busy) : m = .ok () t := by
  rcases settle_eq_next.mp h with h | ⟨r, u, _, rfl⟩
  · exact h
  · cases hb

/-- `WC` after an emitted byte, below the buffer's end (42_copy_engine.md R160). -/
theorem appendOut_wc_toNat (legal : s.params.legal) (room : s.wc.toNat < s.params.outCap) (v : Byte) :
    (s.appendOut v).wc.toNat = s.wc.toNat + 1 := by
  have := legal.2.2
  rw [appendOut_wc, BitVec.toNat_add, BitVec.toNat_ofNat]
  omega

/-- An emission that answers was below both caps. -/
theorem emit_eq_ok {v : Byte} (h : emit v s = .ok () t) :
    s.wc.toNat < s.blkOutBase.toNat + s.params.blockCap ∧ s.wc.toNat < s.params.outCap ∧ t = s.appendOut v := by
  rcases emit_cases v s with ⟨_, e⟩ | ⟨_, _, e⟩ | ⟨blockRoom, outRoom, e⟩ <;> rw [e] at h <;> cases h
  exact ⟨blockRoom, outRoom, rfl⟩

/-- A copy loop that answers had room for all its bytes (42_copy_engine.md R165). -/
theorem room_of_copyBytes_ok {length src : Nat} (legal : s.params.legal)
    (h : copyBytes (length + 1) src s = .ok () t) :
    s.wc.toNat + (length + 1) ≤ s.blkOutBase.toNat + s.params.blockCap ∧
      s.wc.toNat + (length + 1) ≤ s.params.outCap := by
  induction length generalizing src s with
  | zero =>
    obtain ⟨_, _, e, -⟩ := andThen_eq_ok.mp h
    obtain ⟨blockRoom, outRoom, -⟩ := emit_eq_ok e
    exact ⟨blockRoom, outRoom⟩
  | succ n ih =>
    obtain ⟨_, _, e, rest⟩ := andThen_eq_ok.mp h
    obtain ⟨-, outRoom, rfl⟩ := emit_eq_ok e
    have more := ih (s := s.appendOut (s.outAt src)) legal rest
    rw [appendOut_wc_toNat legal outRoom, appendOut_blkOutBase, appendOut_params] at more
    omega

/-- A copy that answers has added `l` bytes, each of them the one that stands `d` before it (42_copy_engine.md R161). -/
theorem copy_eq_ok {d l : Nat} (legal : s.params.legal) (pos : 1 ≤ d) (le : d ≤ 4096) (hl : 1 ≤ l) (hl' : l ≤ 256)
    (h : copy (offsetOf d) (BitVec.ofNat 32 l) s = .ok () t) :
    d ≤ s.wc.toNat ∧ t.wc.toNat = s.wc.toNat + l ∧
      ∀ a, s.wc.toNat ≤ a → a < t.wc.toNat → t.outAt a = t.outAt (a - d) := by
  have hoff := offsetOf_toInt pos le
  have hlen : (BitVec.ofNat 32 l).toNat = l := by
    rw [BitVec.toNat_ofNat, Nat.mod_eq_of_lt (by omega)]
  rcases copy_cases (offsetOf d) (BitVec.ofNat 32 l) s with ⟨_, e⟩ | ⟨reach, e⟩ <;> rw [e] at h
  · cases h
  have hd : d ≤ s.wc.toNat := by omega
  rw [hlen, hoff, show ((s.wc.toNat : Int) + -d).toNat = s.wc.toNat - d by omega] at h
  obtain ⟨blockRoom, outRoom⟩ : s.wc.toNat + l ≤ s.blkOutBase.toNat + s.params.blockCap ∧
      s.wc.toNat + l ≤ s.params.outCap := by
    obtain ⟨n, rfl⟩ := Nat.exists_eq_succ_of_ne_zero (Nat.ne_of_gt hl)
    exact room_of_copyBytes_ok legal h
  obtain ⟨u, hu, frame, bytes, -⟩ := copyBytes_completes l (s.wc.toNat - d) s legal (by omega) blockRoom outRoom
  obtain rfl : u = t := by
    rw [hu] at h
    cases h
    rfl
  have hwc : u.wc.toNat = s.wc.toNat + l := by
    have := legal.2.2
    rw [frame, BitVec.toNat_add, BitVec.toNat_ofNat]
    omega
  refine ⟨hd, hwc, fun a ha ha' => ?_⟩
  have here := bytes (a - s.wc.toNat) (by omega)
  rw [Nat.add_sub_cancel' ha, show s.wc.toNat - d + (a - s.wc.toNat) = a - d by omega] at here
  rw [State.outAt, here, Option.getD_some]

/-- From `s` to `t` the output grows by 2 to 256 bytes, each of them the one that stands one distance of 1 to 4096,
within the output, before it (30_encoding.md R103). -/
def RepeatsOutput (s t : State) : Prop :=
  s.wc.toNat + 2 ≤ t.wc.toNat ∧ t.wc.toNat ≤ s.wc.toNat + 256 ∧
    ∃ distance, 1 ≤ distance ∧ distance ≤ 4096 ∧ distance ≤ s.wc.toNat ∧
      ∀ a, s.wc.toNat ≤ a → a < t.wc.toNat → t.outAt a = t.outAt (a - distance)

/-- Every copy token that completes does so. -/
theorem repeatsOutput_of_exec {i : Instr} {numbers : Nat × Nat} (wf : i.wellFormed = true)
    (hn : copyNumbers i = some numbers) (legal : s.params.legal) (h : exec i s = .next t) (hb : t.engine = .busy) :
    RepeatsOutput s t := by
  obtain ⟨d, l⟩ := numbers
  obtain ⟨pos, le, two, most⟩ := copyNumbers_range wf hn
  rw [exec_of_copyNumbers hn] at h
  obtain ⟨reach, hwc, bytes⟩ := copy_eq_ok legal pos le (by omega) most (ok_of_settle_busy h hb)
  exact ⟨by omega, by omega, d, pos, le, reach, bytes⟩

/-- A literal that completes adds its own byte (41_token_decode.md R141). -/
theorem exec_lit_completed {v : Byte} (legal : s.params.legal) (h : exec (.lit v) s = .next t)
    (hb : t.engine = .busy) : t.wc.toNat = s.wc.toNat + 1 ∧ t.outAt s.wc.toNat = v := by
  obtain ⟨-, outRoom, rfl⟩ := emit_eq_ok (ok_of_settle_busy h hb)
  exact ⟨appendOut_wc_toNat legal outRoom v, by simp [State.outAt]⟩

/-- `EOS` that completes adds nothing (41_token_decode.md R145). -/
theorem exec_eos_completed {lo hi : Byte} (h : exec (.eos lo hi) s = .next t) (hb : t.engine = .busy) :
    t.wc = s.wc := by
  have closed : blockEnd s = .ok () t := ok_of_settle_busy h hb
  rcases blockEnd_cases s with ⟨_, e⟩ | ⟨_, e⟩ <;> rw [e] at closed <;> cases closed
  rfl

/-- A literal costs one control bit of its own and one raw byte (30_encoding.md R92, R103). -/
theorem fetchToken_lit_iff {v : Byte} :
    fetchToken s = .ok (.lit v) t ↔ ∃ u, nextBit s = .ok true u ∧ srcByte u = .ok v t := by
  rw [fetchToken, readToken_iff_takes]
  constructor
  · rintro ⟨-, _, u, ⟨⟩, ⟨_, bit, rfl⟩, _, byte, rfl⟩
    exact ⟨_, bit, byte⟩
  · rintro ⟨u, bit, byte⟩
    exact ⟨rfl, _, u, rfl, ⟨u, bit, rfl⟩, t, byte, rfl⟩

/-- The distance of an offset is the one it was made for (42_copy_engine.md R161). -/
theorem copyDistance_offsetOf {d : Nat} (pos : 1 ≤ d) (le : d ≤ 4096) : copyDistance (offsetOf d) = d := by
  rw [copyDistance, offsetOf_toInt pos le, neg_neg]

end Sys2Proof.Machine

open Sys2Proof Sys2Proof.Machine

/-- Settles O9, from the operands as numbers and from what a completed token adds. -/
theorem noTokenExceedsTheLimits : Obligations.NoTokenExceedsTheLimits := by
  refine ⟨fun v => ?_, fun lo hi => ?_, fun a b => ?_, fun hi => ?_, fun n hn => ?_,
    fun _ _ _ => fetchToken_lit_iff, fun i s t wf token legal _ h hb => ?_⟩
  · have := v.isLt
    rw [shortOffset_eq, copyDistance_offsetOf (by omega) (by omega)]
    omega
  · have := lo.isLt
    have := hi.isLt
    rw [longOffset_eq, copyDistance_offsetOf (by omega) (by omega)]
    omega
  · have := a.toNat_le
    have := b.toNat_le
    rw [shortLength_toNat]
    omega
  · rw [isEscape_eq_false_iff, longLength_toNat]
    omega
  · have := n.isLt
    have : n.toNat ≠ 0 := fun e => hn (BitVec.eq_of_toNat_eq e)
    rw [extLength_toNat]
    omega
  · cases i with
    | lit v => exact .inr (.inl ⟨v, rfl, exec_lit_completed legal h hb⟩)
    | eos lo hi => exact .inl ⟨⟨lo, hi, rfl⟩, exec_eos_completed h hb⟩
    | start => exact absurd rfl token
    | scopy a b v => exact .inr (.inr (repeatsOutput_of_exec wf rfl legal h hb))
    | lcopy lo hi => exact .inr (.inr (repeatsOutput_of_exec wf rfl legal h hb))
    | xcopy lo hi n => exact .inr (.inr (repeatsOutput_of_exec wf rfl legal h hb))
end

/-! ## Token images (30_encoding.md R96) -/

section
namespace Sys2Proof

/-! ### Reading a list of bits or bytes from a byte stream -/

/-- Bits that stand in the window, with one more left there, are taken without a reload (40_bitstream_reader.md
R123). -/
theorem takes_window {bits : List Bool} {b : BitStream} (more : bits.length < b.count.toNat)
    (h : ∀ k, (hk : k < bits.length) → bits[k] = b.window.getLsbD k) :
    ∃ u, Takes BitStream.nextBit bits b u ∧ u.bytes = b.bytes := by
  induction bits generalizing b with
  | nil => exact ⟨b, rfl, rfl⟩
  | cons x bits ih =>
    have first : x = b.window.getLsbD 0 := h 0 (Nat.succ_pos _)
    have count : (b.count - 1#5).toNat = b.count.toNat - 1 := by
      rw [List.length_cons] at more
      bv_omega
    have left : b.count - 1#5 ≠ 0#5 := by
      intro e
      rw [e] at count
      simp at count more
      omega
    have taken : b.nextBit = .ok x { b with window := b.window >>> 1, count := b.count - 1#5 } := by
      rw [BitStream.nextBit, if_neg left, first]
    obtain ⟨u, rest, bytes⟩ := ih (b := { b with window := b.window >>> 1, count := b.count - 1#5 })
      (by rw [List.length_cons] at more; rw [count]; omega)
      (fun k hk => by simpa [Nat.add_comm 1 k] using h (k + 1) (Nat.succ_lt_succ hk))
    exact ⟨u, ⟨_, taken, rest⟩, bytes⟩

theorem takes_bytes {raw rest : List Byte} {b : BitStream} (h : b.bytes = raw ++ rest) :
    Takes BitStream.nextByte raw b { b with bytes := rest } := by
  induction raw generalizing b with
  | nil =>
    obtain ⟨window, count, bytes⟩ := b
    exact congrArg (BitStream.mk window count) h
  | cons v raw ih =>
    refine ⟨{ b with bytes := raw ++ rest }, ?_, ih rfl⟩
    rw [BitStream.nextByte, h]
    rfl

/-! ### The parts of an image -/

/-- The first two control bits say how many there are (30_encoding.md R96). -/
theorem imageControlBits_eq (w : BitVec 26) :
    imageControlBits w.toNat = if w.getLsbD 0 then 1 else if w.getLsbD 1 then 2 else 4 := by
  simp [imageControlBits, BitVec.getLsbD, Nat.testBit, Nat.shiftRight_eq_div_pow]

theorem imageControlBits_le (w : BitVec 26) : imageControlBits w.toNat ≤ 4 := by
  rw [imageControlBits_eq]
  split
  · decide
  · split <;> decide

theorem imageRawByte_eq (w : BitVec 26) (j : Nat) :
    imageRawByte w.toNat j = w.extractLsb' (imageControlBits w.toNat + 8 * j) 8 := by
  rw [imageRawByte, BitVec.extractLsb', Nat.shiftRight_eq_div_pow]

/-- The control bits of an image, from bit 0 upward. -/
def imageControl (w : BitVec 26) : List Bool := (List.range (imageControlBits w.toNat)).map w.getLsbD

/-- The block of an image, opened (40_bitstream_reader.md R122). -/
def imageStream (ti : Nat) : BitStream where
  window := markerWord (BitVec.ofNat 8 (ti % 2 ^ imageControlBits ti)) 0#8
  count := 16#5
  bytes := [imageRawByte ti 0, imageRawByte ti 1, imageRawByte ti 2]

/-- An image of at most 26 bits is read from its block, not as a value of `CMD` (log 17). -/
theorem decodeTableWord_of_decodeNext {ti : Nat} {i : Instr} {t : BitStream}
    (h : decodeNext (imageStream ti) = .ok i t) : decodeTableWord 26 ti = some i := by
  have opened : openBlockStream (imageBlock ti) = .ok () (imageStream ti) := rfl
  have token : isCommandImage 26 ti = false := by simp [isCommandImage]
  rw [decodeTableWord, token, if_neg (by decide), opened, Machine.andThen_ok, h]

theorem imageStream_window_getLsbD (w : BitVec 26) {k : Nat} (hk : k < imageControlBits w.toNat) :
    (imageStream w.toNat).window.getLsbD k = w.getLsbD k := by
  have := imageControlBits_le w
  rw [imageStream, markerWord_getLsbD, if_pos (by omega), BitVec.getLsbD_ofNat, Nat.testBit_mod_two_pow]
  simp [hk, (by omega : k < 8), BitVec.getLsbD]

/-- A row's instruction is read from an image whose control bits and raw bytes are the instruction's. -/
theorem decodeTableWord_of_spelled {w : BitVec 26} {i : Instr} {spelling : Spelling} (wf : i.wellFormed = true)
    (e : encode i = .token spelling) (control : spelling.control = imageControl w)
    (raw : spelling.raw <+: (imageStream w.toNat).bytes) : decodeTableWord 26 w.toNat = some i := by
  obtain ⟨rest, raw⟩ := raw
  have length : spelling.control.length = imageControlBits w.toNat := by
    rw [control, imageControl, List.length_map, List.length_range]
  obtain ⟨u, bits, bytes⟩ := takes_window (bits := spelling.control) (b := imageStream w.toNat)
    (length.trans_lt ((imageControlBits_le w).trans_lt (by decide : 4 < (16#5).toNat)))
    (fun k hk => by
      rw [imageStream_window_getLsbD w (length ▸ hk)]
      simp [control, imageControl])
  exact decodeTableWord_of_decodeNext
    (readToken_iff_takes.mpr ⟨wf, spelling, u, e, bits, takes_bytes (bytes.trans raw.symm)⟩)

/-! ### Masks -/

/-- What a mask says of one bit. -/
theorem getLsbD_of_masked {w mask value : BitVec 26} (h : w &&& mask = value) (k : Nat) (hk : mask.getLsbD k = true) :
    w.getLsbD k = value.getLsbD k := by
  rw [← h, BitVec.getLsbD_and, hk, Bool.and_true]

/-- What a mask says of a field. -/
theorem extractLsb'_of_masked {w mask value : BitVec 26} (h : w &&& mask = value) (start len : Nat) :
    w.extractLsb' start len &&& mask.extractLsb' start len = value.extractLsb' start len := by
  rw [← h, BitVec.extractLsb'_and]

/-- The length field of an image of the long form (30_encoding.md R95). -/
theorem isEscape_extractLsb' (w : BitVec 26) : isEscape (w.extractLsb' 10 8) = true ↔ w.extractLsb' 10 4 = 0#4 := by
  rw [isEscape_iff, ← BitVec.toNat_inj, BitVec.extractLsb'_toNat, BitVec.extractLsb'_toNat]
  simp

/-- The control bits of an image, by the first two of them. -/
theorem imageControl_lit {w : BitVec 26} (h0 : w.getLsbD 0 = true) :
    imageControlBits w.toNat = 1 ∧ imageControl w = [true] := by
  have bits : imageControlBits w.toNat = 1 := by rw [imageControlBits_eq, h0, if_pos rfl]
  exact ⟨bits, by simp [imageControl, bits, h0]⟩

theorem imageControl_short {w : BitVec 26} (h0 : w.getLsbD 0 = false) (h1 : w.getLsbD 1 = false) :
    imageControlBits w.toNat = 4 ∧ imageControl w = [false, false, w.getLsbD 2, w.getLsbD 3] := by
  have bits : imageControlBits w.toNat = 4 := by rw [imageControlBits_eq, h0, h1]; rfl
  have image : imageControl w = [w.getLsbD 0, w.getLsbD 1, w.getLsbD 2, w.getLsbD 3] := by rw [imageControl, bits]; rfl
  exact ⟨bits, by rw [image, h0, h1]⟩

theorem imageControl_long {w : BitVec 26} (h0 : w.getLsbD 0 = false) (h1 : w.getLsbD 1 = true) :
    imageControlBits w.toNat = 2 ∧ imageControl w = [false, true] := by
  have bits : imageControlBits w.toNat = 2 := by rw [imageControlBits_eq, h0, h1]; rfl
  have image : imageControl w = [w.getLsbD 0, w.getLsbD 1] := by rw [imageControl, bits]; rfl
  exact ⟨bits, by rw [image, h0, h1]⟩

/-- The long form is read from an image that begins with `0 1`, with the raw bytes at bits 2, 10 and 18. -/
theorem decodeTableWord_long {w : BitVec 26} {i : Instr} {spelling : Spelling} (wf : i.wellFormed = true)
    (e : encode i = .token spelling) (h0 : w.getLsbD 0 = false) (h1 : w.getLsbD 1 = true)
    (control : spelling.control = [false, true])
    (raw : spelling.raw <+: [w.extractLsb' 2 8, w.extractLsb' 10 8, w.extractLsb' 18 8]) :
    decodeTableWord 26 w.toNat = some i := by
  obtain ⟨bits, image⟩ := imageControl_long h0 h1
  refine decodeTableWord_of_spelled wf e (control.trans image.symm) ?_
  simpa only [imageStream, imageRawByte_eq, bits] using raw

end Sys2Proof

open Sys2Proof Sys2Proof.Machine

/-- Settles O4: the masks fix the control bits and the length field, and the token read is the one these spell. -/
theorem tokenImageSelectsItsRow : Obligations.TokenImageSelectsItsRow := by
  refine fun w => ⟨fun h => ?_, fun h => ?_, fun h slot => ?_, fun h n => ?_, fun h => ?_, fun v => ?_⟩
  · obtain ⟨bits, image⟩ := imageControl_lit (getLsbD_of_masked h 0 rfl)
    refine decodeTableWord_of_spelled rfl rfl image.symm ?_
    simp [imageStream, imageRawByte_eq, bits]
  · obtain ⟨bits, image⟩ := imageControl_short (getLsbD_of_masked h 0 rfl) (getLsbD_of_masked h 1 rfl)
    refine decodeTableWord_of_spelled rfl rfl image.symm ?_
    simp [imageStream, imageRawByte_eq, bits]
  · have escape : isEscape (w.extractLsb' 10 8) = false := by
      rwa [← Bool.not_eq_true, isEscape_extractLsb']
    exact decodeTableWord_long (by simp [Instr.wellFormed, escape]) rfl (getLsbD_of_masked h 0 rfl)
      (getLsbD_of_masked h 1 rfl) rfl (by simp)
  · have escape : isEscape (w.extractLsb' 10 8) = true :=
      beq_iff_eq.mpr (extractLsb'_of_masked h 10 8)
    exact decodeTableWord_long (by simp [Instr.wellFormed, escape, n]) rfl (getLsbD_of_masked h 0 rfl)
      (getLsbD_of_masked h 1 rfl) rfl (by simp)
  · have escape : isEscape (w.extractLsb' 10 8) = true :=
      beq_iff_eq.mpr (extractLsb'_of_masked h 10 8)
    have n : w.extractLsb' 18 8 = 0#8 := by
      have field := extractLsb'_of_masked h 18 8
      exact BitVec.and_allOnes.symm.trans field
    exact decodeTableWord_long escape rfl (getLsbD_of_masked h 0 rfl) (getLsbD_of_masked h 1 rfl) rfl
      (by rw [n])
  · rw [show v &&& 0xFFFFFFFF#32 = v from BitVec.and_allOnes]
    rfl
end

/-! ## A completed token step: what it takes from the stream (41_token_decode.md R148) -/

section
namespace Sys2Proof.Machine

variable {s t m : State} {i : Instr}

/-! ### The fields a moved cursor leaves -/

namespace CursorOnly

theorem wc_eq (h : CursorOnly s t) : t.wc = s.wc := by rw [h]
theorem out_eq (h : CursorOnly s t) : t.out = s.out := by rw [h]
theorem engine_eq (h : CursorOnly s t) : t.engine = s.engine := by rw [h]
theorem phase_eq (h : CursorOnly s t) : t.phase = s.phase := by rw [h]
theorem params_eq (h : CursorOnly s t) : t.params = s.params := by rw [h]
theorem blkOutBase_eq (h : CursorOnly s t) : t.blkOutBase = s.blkOutBase := by rw [h]

theorem srcAt_eq (h : CursorOnly s t) (i : Nat) : t.srcAt i = s.srcAt i := by rw [h]; rfl

theorem outBytes_eq (h : CursorOnly s t) : t.outBytes = s.outBytes := by
  rw [h]
  rfl

end CursorOnly

theorem nextBit_cursorOnly {b : Bool} (h : nextBit s = .ok b t) : CursorOnly s t := by
  rcases nextBit_cases s with ⟨_, e⟩ | ⟨_, _, e⟩ | ⟨_, _, e⟩ <;> rw [e] at h <;> cases h <;> rfl

/-! ### Control bits and raw bytes, counted -/

theorem takeBit_count_eq_zero : s.takeBit.count = 0#5 ↔ s.count = 1#5 := sub_eq_zero

/-- A control bit lowers `COUNT` by one, or, as the 16th of its marker word, loads the next marker word
(40_bitstream_reader.md R123). -/
theorem nextBit_counts {b : Bool} (pos : 1 ≤ s.count.toNat) (h : nextBit s = .ok b t) :
    (2 ≤ s.count.toNat ∧ t.count.toNat = s.count.toNat - 1 ∧ t.sp.toNat = s.sp.toNat) ∨
    (s.count.toNat = 1 ∧ t.count.toNat = 16 ∧ t.sp.toNat = s.sp.toNat + 2) := by
  rcases nextBit_cases s with ⟨more, e⟩ | ⟨last, room, e⟩ | ⟨_, _, e⟩ <;> rw [e] at h <;> cases h
  · have : s.count.toNat ≠ 1 := fun e => more (takeBit_count_eq_zero.mpr (BitVec.eq_of_toNat_eq e))
    exact .inl ⟨by omega, by rw [takeBit_count]; bv_omega, rfl⟩
  · exact .inr ⟨congrArg BitVec.toNat (takeBit_count_eq_zero.mp last), rfl, loadMarker_sp_toNat room⟩

/-- Up to 16 control bits need at most one new marker word. -/
theorem takes_nextBit_counts {bits : List Bool} (pos : 1 ≤ s.count.toNat) (few : bits.length ≤ 16)
    (h : Takes nextBit bits s t) :
    t.count.toNat + bits.length = s.count.toNat + (if s.count.toNat ≤ bits.length then 16 else 0) ∧
    t.sp.toNat = s.sp.toNat + (if s.count.toNat ≤ bits.length then 2 else 0) := by
  induction bits generalizing s with
  | nil =>
    cases h
    rw [List.length_nil, if_neg (by omega), if_neg (by omega)]
    exact ⟨rfl, rfl⟩
  | cons b bits ih =>
    obtain ⟨u, first, rest⟩ := h
    rw [List.length_cons] at few ⊢
    rcases nextBit_counts pos first with ⟨_, hc, hsp⟩ | ⟨_, hc, hsp⟩
    · have later := ih (by omega) (by omega) rest
      split at later <;> split <;> omega
    · have later := ih (by omega) (by omega) rest
      split at later <;> split <;> omega

/-- A raw byte advances `SP` by one and leaves `COUNT` (40_bitstream_reader.md R124). -/
theorem takes_srcByte_counts {bytes : List Byte} (h : Takes srcByte bytes s t) :
    t.count = s.count ∧ t.sp.toNat = s.sp.toNat + bytes.length := by
  induction bytes generalizing s with
  | nil => cases h; exact ⟨rfl, rfl⟩
  | cons v bytes ih =>
    obtain ⟨u, first, rest⟩ := h
    obtain ⟨hc, hsp⟩ := ih rest
    rcases srcByte_cases s with ⟨room, e⟩ | ⟨_, e⟩ <;> rw [e] at first <;> cases first
    rw [advanceSource_sp_toNat room] at hsp
    exact ⟨hc, by rw [List.length_cons]; omega⟩

/-- `consumed` counts the token's spelling (30_encoding.md R92 to R95). -/
theorem consumed_of_encode {spelling : Spelling} (h : encode i = .token spelling) :
    (consumed i).1 = spelling.control.length ∧ (consumed i).2 = spelling.raw.length ∧ (consumed i).1 ≤ 4 ∧
      1 ≤ (consumed i).2 := by
  cases i <;> cases h <;> simp [consumed]

/-- What a fetch takes: the token's control bits, the marker word after the 16th bit, and its raw bytes
(41_token_decode.md R140, R148). -/
theorem fetchToken_counts (pos : 1 ≤ s.count.toNat) (h : fetchToken s = .ok i m) :
    m.count.toNat + (consumed i).1 = s.count.toNat + (if s.count.toNat ≤ (consumed i).1 then 16 else 0) ∧
    m.sp.toNat = s.sp.toNat + (consumed i).2 + (if s.count.toNat ≤ (consumed i).1 then 2 else 0) ∧
    s.sp.toNat < m.sp.toNat := by
  obtain ⟨-, spelling, u, e, control, raw⟩ := readToken_iff_takes.mp h
  obtain ⟨bits, bytes, fewBits, someByte⟩ := consumed_of_encode e
  obtain ⟨hc, hsp⟩ := takes_nextBit_counts pos (by omega) control
  obtain ⟨hc', hsp'⟩ := takes_srcByte_counts raw
  rw [← bits] at hc hsp
  rw [← bytes] at hsp'
  rw [hc']
  omega

end Sys2Proof.Machine
end

/-! ## Steps of tokens (41_token_decode.md R140, R141) -/

section
namespace Sys2Proof.Machine

variable {s t u : State}

/-- With no host move to come, in `BUSY` and phase `TOKEN`, the step is TokenStep (43_block_chainer.md R172). -/
theorem step_of_token (hm : s.hostMoves = []) (hb : s.engine = .busy) (hp : s.phase = .token) :
    step s = tokenStep s := (step_of_no_move hm).trans (engineStep_of_token hb hp)

theorem tokenStep_of_fetched {i : Instr} (h : fetchToken s = .ok i t) : tokenStep s = exec i t := by
  rw [tokenStep, h]

theorem tokenStep_of_missing {r : Raise} (h : fetchToken s = .stop r t) : tokenStep s = .next (t.enterFault r) := by
  rw [tokenStep, h]

/-- The marker word after the literal's control bit is missing (40_bitstream_reader.md R121). -/
theorem fetchToken_of_bit_stop {r : Raise} (h : nextBit s = .stop r u) : fetchToken s = .stop r u := by
  rw [fetchToken, readToken, h, andThen_stop]

/-- After a control bit 1, a literal lacks its raw byte at the block's end (40_bitstream_reader.md R124). -/
theorem fetchToken_of_literal_short (bit : nextBit s = .ok true u) (short : u.blkSrcLimit.toNat ≤ u.sp.toNat) :
    fetchToken s = .stop ⟨.sourceTruncated, 0#32⟩ u := by
  rw [fetchToken, readToken, bit, andThen_ok, if_pos rfl, srcByte, if_pos short, andThen_stop]

/-- After a control bit 1, the byte at `SP` is the literal (30_encoding.md R92). -/
theorem fetchToken_of_literal (bit : nextBit s = .ok true u) (room : u.sp.toNat < u.blkSrcLimit.toNat) :
    fetchToken s = .ok (.lit (u.srcAt u.sp.toNat)) u.advanceSource :=
  fetchToken_lit_iff.mpr ⟨u, bit, if_neg room.not_ge⟩

/-- A bit with more left in the window (40_bitstream_reader.md R123). -/
theorem nextBit_of_more (more : s.count ≠ 1#5) : nextBit s = .ok (s.window.getLsbD 0) s.takeBit :=
  if_neg (takeBit_count_eq_zero.not.mpr more)

/-- The last bit of the window, with a marker word to load. -/
theorem nextBit_of_last (last : s.count = 1#5) (room : s.sp.toNat + 2 ≤ s.blkSrcLimit.toNat) :
    nextBit s = .ok (s.window.getLsbD 0) s.takeBit.loadMarker := by
  rw [nextBit, if_pos (takeBit_count_eq_zero.mpr last), reload_of_room (s := s.takeBit) room, andThen_ok]

/-- The last bit of the window, with no marker word left. -/
theorem nextBit_of_last_short (last : s.count = 1#5) (short : s.blkSrcLimit.toNat < s.sp.toNat + 2) :
    nextBit s = .stop ⟨.sourceTruncated, 0#32⟩ s.takeBit := by
  rw [nextBit, if_pos (takeBit_count_eq_zero.mpr last), reload_of_short (s := s.takeBit) short, andThen_stop]

/-- `Emit` over the per-call cap (42_copy_engine.md R160). -/
theorem exec_lit_of_blockFull {v : Byte} (full : s.blkOutBase.toNat + s.params.blockCap ≤ s.wc.toNat) :
    exec (.lit v) s = .next (s.enterFault ⟨.outputOverflow, 0#32⟩) := by
  rw [exec, execLit, emit, if_pos full, settle]

/-- `Emit` at the buffer's end. -/
theorem exec_lit_of_outFull {v : Byte} (blockRoom : s.wc.toNat < s.blkOutBase.toNat + s.params.blockCap)
    (full : s.params.outCap ≤ s.wc.toNat) : exec (.lit v) s = .next (s.enterFault ⟨.outputOverflow, 1#32⟩) := by
  rw [exec, execLit, emit, if_neg blockRoom.not_ge, if_pos full, settle]

/-- `Emit` with room under both caps. -/
theorem exec_lit_of_room {v : Byte} (blockRoom : s.wc.toNat < s.blkOutBase.toNat + s.params.blockCap)
    (outRoom : s.wc.toNat < s.params.outCap) : exec (.lit v) s = .next (s.appendOut v) := by
  rw [exec, execLit, emit, if_neg blockRoom.not_ge, if_neg outRoom.not_ge, settle]

end Sys2Proof.Machine

open Sys2Proof Sys2Proof.Machine

/-- Settles O18, from the two kinds of a step and the two ends of a fetch. -/
theorem stepRunsTheFetchedInstruction : Obligations.StepRunsTheFetchedInstruction := by
  refine ⟨fun s i t hm hb hp h => (step_of_token hm hb hp).trans (tokenStep_of_fetched h),
    fun s r t hm hb hp h => (step_of_token hm hb hp).trans (tokenStep_of_missing h),
    fun s rest h => step_of_move h, fun s h => step_of_no_move h, fun s rest v i h hv => ?_⟩
  rw [step_of_move h, hostStep_writeCmd, writeCommand, hv]

/-- Settles O7: both halves of `D` as numbers, and a distance field for each number below 4096. -/
theorem longOffsetIsDMinus4096 : Obligations.LongOffsetIsDMinus4096 := by
  refine ⟨fun lo hi => ?_, fun d => ?_⟩
  · have hD := distanceField_toNat lo hi
    have below := (distanceField lo hi).isLt
    have offset : longOffset lo hi = offsetOf (4096 - (distanceField lo hi).toNat) := by rw [longOffset_eq, hD]
    refine ⟨hD, ?_, ?_, ?_⟩
    · rw [offset, offsetOf_toInt (by omega) (by omega)]
      omega
    · apply BitVec.eq_of_toNat_eq
      rw [longOffset_toNat, ← hD, BitVec.toNat_or, BitVec.toNat_setWidth_of_le (by decide)]
      exact Nat.two_pow_add_eq_or_of_lt below 0xFFFFF
    · rw [offset, copyDistance_offsetOf (by omega) (by omega)]
      omega
  · have := d.isLt
    refine ⟨BitVec.ofNat 8 d.toNat, BitVec.ofNat 8 (16 * (d.toNat / 256)), BitVec.eq_of_toNat_eq ?_⟩
    rw [distanceField_toNat, BitVec.toNat_ofNat, BitVec.toNat_ofNat]
    omega

/-- Settles O12: the control bit leads to the cursor named in the statement, and from there the raw byte and the output
byte are taken and written, or their fault is raised. -/
theorem literalStep : Obligations.LiteralStep := by
  intro s hm hb hp _ _ bit bitTaken cursor
  rw [step_of_token hm hb hp]
  refine ⟨fun last short => ?_, fun room => ?_⟩
  · exact tokenStep_of_missing (fetchToken_of_bit_stop (nextBit_of_last_short last short))
  have read : nextBit s = .ok true cursor := by
    by_cases last : s.count = 1#5
    · rw [nextBit_of_last last (room last), bit, show cursor = s.takeBit.loadMarker from if_pos last]
    · rw [nextBit_of_more last, bit, show cursor = s.takeBit from if_neg last]
  have same := nextBit_cursorOnly read
  rw [← same.wc_eq, ← same.blkOutBase_eq, ← same.params_eq, ← same.out_eq]
  refine ⟨fun short => tokenStep_of_missing (fetchToken_of_literal_short read short), fun more => ?_⟩
  rw [tokenStep_of_fetched (fetchToken_of_literal read more)]
  refine ⟨exec_lit_of_blockFull (s := cursor.advanceSource), exec_lit_of_outFull (s := cursor.advanceSource),
    fun blockRoom outRoom => ?_⟩
  refine ⟨_, exec_lit_of_room (s := cursor.advanceSource) blockRoom outRoom, rfl, ?_,
    fun a ha => read_write_other _ _ _ _ ha⟩
  rw [appendOut_out, same.srcAt_eq]
  exact read_write_same _ _ _
end

/-! ## Output of a copy (42_copy_engine.md R161, R162), and what the engine never rewrites (43_block_chainer.md R179) -/

section
namespace Sys2Proof.Machine

variable {s t u : State} {d l : Nat}

/-- The offset and length of a copy token, as numbers: InvalidBackReference, or the loop from `WC - d`. -/
theorem copy_offsetOf_cases (pos : 1 ≤ d) (le : d ≤ 4096) (hl : l ≤ 256) (s : State) :
    (s.wc.toNat < d ∧
      copy (offsetOf d) (BitVec.ofNat 32 l) s = .stop ⟨.invalidBackReference, offsetOf d⟩ s) ∨
    (d ≤ s.wc.toNat ∧ copy (offsetOf d) (BitVec.ofNat 32 l) s = copyBytes l (s.wc.toNat - d) s) := by
  have length : (BitVec.ofNat 32 l).toNat = l := by
    rw [BitVec.toNat_ofNat, Nat.mod_eq_of_lt (by omega)]
  rcases copy_cases (offsetOf d) (BitVec.ofNat 32 l) s with ⟨short, e⟩ | ⟨reach, e⟩ <;>
    rw [offsetOf_toInt pos le] at *
  · exact .inl ⟨by omega, e⟩
  · exact .inr ⟨by omega, by rw [e, length]; congr 1; omega⟩

/-- The byte `i` of a copy that reads `d` bytes back is byte `i mod d` of the pattern that stood below `WC`: the copy
reads its own output (42_copy_engine.md R162). -/
theorem outAt_of_repeats (pos : 1 ≤ d) (reach : d ≤ s.wc.toNat)
    (below : ∀ a, a < s.wc.toNat → t.outAt a = s.outAt a)
    (bytes : ∀ i, i < l → t.outAt (s.wc.toNat + i) = t.outAt (s.wc.toNat - d + i)) (i : Nat) (hi : i < l) :
    t.outAt (s.wc.toNat + i) = s.outAt (s.wc.toNat - d + i % d) := by
  induction i using Nat.strong_induction_on with
  | _ i ih =>
    rw [bytes i hi]
    by_cases first : i < d
    · rw [below _ (by omega), Nat.mod_eq_of_lt first]
    · have earlier := ih (i - d) (by omega) (by omega)
      rw [← Nat.mod_eq_sub_mod (by omega)] at earlier
      rw [← earlier]
      congr 1
      omega

/-- A copy loop with its distance within the output and room under both caps completes and repeats the pattern
(42_copy_engine.md R162). -/
theorem copyBytes_copiedFrom (legal : s.params.legal) (pos : 1 ≤ d) (reach : d ≤ s.wc.toNat)
    (blockRoom : s.wc.toNat + l ≤ s.blkOutBase.toNat + s.params.blockCap)
    (outRoom : s.wc.toNat + l ≤ s.params.outCap) :
    ∃ t, copyBytes l (s.wc.toNat - d) s = .ok () t ∧ CopiedFrom s t d l := by
  obtain ⟨t, done, frame, bytes, rest⟩ :=
    copyBytes_completes l (s.wc.toNat - d) s legal (by omega) blockRoom outRoom
  have resets : t.resets = s.resets := by rw [frame]
  have below (a : Nat) (ha : a < s.wc.toNat) : t.outAt a = s.outAt a := by
    rw [State.outAt, State.outAt, rest a (.inl ha), resets]
  have same (i : Nat) (hi : i < l) : t.outAt (s.wc.toNat + i) = t.outAt (s.wc.toNat - d + i) := by
    rw [State.outAt, bytes i hi, Option.getD_some]
  refine ⟨t, done, frame, fun i hi => ?_, rest⟩
  rw [bytes i hi, ← same i hi, outAt_of_repeats pos reach below same i hi]

/-- A copy loop that answers had the room, so it has repeated the pattern. -/
theorem copiedFrom_of_copyBytes_ok (legal : s.params.legal) (pos : 1 ≤ d) (reach : d ≤ s.wc.toNat) (nonempty : 1 ≤ l)
    (h : copyBytes l (s.wc.toNat - d) s = .ok () t) : CopiedFrom s t d l := by
  obtain ⟨n, rfl⟩ := Nat.exists_eq_succ_of_ne_zero (Nat.ne_of_gt nonempty)
  obtain ⟨blockRoom, outRoom⟩ := room_of_copyBytes_ok legal h
  obtain ⟨u, done, copied⟩ := copyBytes_copiedFrom legal pos reach blockRoom outRoom
  rw [done] at h
  cases h
  exact copied

/-! ### The output as a list -/

theorem outBytes_length (s : State) : s.outBytes.length = s.wc.toNat := by
  simp [State.outBytes]

theorem outBytes_getD {i : Nat} (h : i < s.wc.toNat) (default : Byte) : s.outBytes.getD i default = s.outAt i := by
  simp [State.outBytes, List.getD_eq_getElem?_getD, h]

/-- An emitted byte is appended to the output (42_copy_engine.md R160). -/
theorem appendOut_outBytes (legal : s.params.legal) (room : s.wc.toNat < s.params.outCap) (v : Byte) :
    (s.appendOut v).outBytes = s.outBytes ++ [v] := by
  have new : (s.appendOut v).outAt s.wc.toNat = v := by simp [State.outAt]
  have old (i : Nat) (hi : i < s.wc.toNat) : (s.appendOut v).outAt i = s.outAt i := by
    simp [State.outAt, read_write_other _ _ _ _ (Nat.ne_of_lt hi)]
  rw [State.outBytes, appendOut_wc_toNat legal room, List.range_succ, List.map_append, List.map_singleton, new]
  exact congrArg (· ++ [v]) (List.map_congr_left fun i hi => old i (List.mem_range.mp hi))

/-- The copy loop does to the output what the reference decoder does (42_copy_engine.md R161). -/
theorem copyBytes_outBytes (legal : s.params.legal) (pos : 1 ≤ d) (reach : d ≤ s.wc.toNat)
    (h : copyBytes l (s.wc.toNat - d) s = .ok () t) : t.outBytes = expandCopy d l s.outBytes := by
  induction l generalizing s with
  | zero => cases h; rfl
  | succ n ih =>
    obtain ⟨_, u, first, rest⟩ := andThen_eq_ok.mp h
    obtain ⟨-, room, rfl⟩ := emit_eq_ok first
    have wc := appendOut_wc_toNat legal room (s.outAt (s.wc.toNat - d))
    rw [show s.wc.toNat - d + 1 = s.wc.toNat + 1 - d by omega, ← wc] at rest
    rw [ih (s := s.appendOut (s.outAt (s.wc.toNat - d))) legal (by omega) rest, appendOut_outBytes legal room,
      expandCopy, outBytes_length, outBytes_getD (by omega)]

/-! ### `WC` and the bytes of OUT along a run -/

/-- `WC` has not fallen, and the bytes of OUT below the old `WC` and from the new `WC` upward are as before
(43_block_chainer.md R179). -/
def OutputGrows (s t : State) : Prop :=
  s.wc.toNat ≤ t.wc.toNat ∧ ∀ a, (a < s.wc.toNat ∨ t.wc.toNat ≤ a) → Memory.read? t.out a = Memory.read? s.out a

theorem OutputGrows.of_eq (wc : t.wc = s.wc) (out : t.out = s.out) : OutputGrows s t :=
  ⟨by rw [wc], fun _ _ => by rw [out]⟩

theorem OutputGrows.trans (h : OutputGrows s t) (h' : OutputGrows t u) : OutputGrows s u := by
  obtain ⟨grows, same⟩ := h
  obtain ⟨grows', same'⟩ := h'
  exact ⟨grows.trans grows', fun a ha => (same' a (by omega)).trans (same a (by omega))⟩

theorem OutputGrows.appendOut (legal : s.params.legal) (room : s.wc.toNat < s.params.outCap) (v : Byte) :
    OutputGrows s (s.appendOut v) := by
  have wc := appendOut_wc_toNat legal room v
  exact ⟨by omega, fun a ha => read_write_other _ _ _ _ (by omega)⟩

/-- Every micro-operation of a token lets the output grow from a state `x` on. -/
theorem tokenRule_outputGrows (x : State) :
    TokenRule (fun s => s.engine = .busy ∧ s.params.legal ∧ OutputGrows x s) (OutputGrows x)
      fun _ s => OutputGrows x s where
  busy h := h.1
  takes_bit {s} h := by
    rcases nextBit_cases s with ⟨_, e⟩ | ⟨_, _, e⟩ | ⟨_, _, e⟩ <;> rw [e]
    · exact yields_ok.mpr h
    · exact yields_ok.mpr h
    · exact yields_stop.mpr h.2.2
  takes_byte {s} h := by
    rcases srcByte_cases s with ⟨_, e⟩ | ⟨_, e⟩ <;> rw [e]
    · exact yields_ok.mpr h
    · exact yields_stop.mpr h.2.2
  emits {s} h v := by
    obtain ⟨busy, legal, grows⟩ := h
    rcases emit_cases v s with ⟨_, e⟩ | ⟨_, _, e⟩ | ⟨_, room, e⟩ <;> rw [e]
    · exact yields_stop.mpr grows
    · exact yields_stop.mpr grows
    · exact yields_ok.mpr ⟨busy, legal, grows.trans (.appendOut legal room v)⟩
  refuses_copy h _ := h.2.2
  closes {s} h := by
    rcases blockEnd_cases s with ⟨_, e⟩ | ⟨_, e⟩ <;> rw [e]
    · exact yields_ok.mpr h.2.2
    · exact yields_stop.mpr h.2.2
  ends h := h.2.2

theorem blockBegin_outputGrows (s : State) :
    Yields (OutputGrows s) (fun _ t => OutputGrows s t) (blockBegin s) := by
  have same {t : State} : t.wc = s.wc → t.out = s.out → OutputGrows s t := .of_eq
  rcases blockBegin_cases s with ⟨_, e⟩ | ⟨_, _, e⟩ | ⟨_, _, _, e⟩ | ⟨_, _, _, e⟩ <;> rw [e]
  · exact yields_ok.mpr (same rfl rfl)
  · exact yields_stop.mpr (same rfl rfl)
  · exact yields_stop.mpr (same rfl rfl)
  · exact yields_ok.mpr (same rfl rfl)

/-- A step of the engine lets the output grow, also by fault entry (43_block_chainer.md R179). -/
theorem engineStep_outputGrows (legal : s.params.legal) (h : engineStep s = .next t) : OutputGrows s t := by
  have settled : (OutputGrows s t ∨ ∃ (r : Raise) (u : State), OutputGrows s u ∧ t = u.enterFault r) →
      OutputGrows s t := by
    rintro (grows | ⟨r, u, grows, rfl⟩)
    · exact grows
    · exact grows
  rcases engineStep_cases s with ⟨_, e⟩ | ⟨_, _, e⟩ | ⟨hb, _, e⟩ <;> rw [e] at h
  · cases h; exact .of_eq rfl rfl
  · exact settled ((blockBegin_outputGrows s).settle_cases h)
  · exact settled ((tokenRule_outputGrows s).tokenStep ⟨hb, legal, .of_eq rfl rfl⟩ h)

end Sys2Proof.Machine
end

/-! ## A completed token step as a whole (41_token_decode.md R148) -/

section
namespace Sys2Proof.Machine

variable {s t m : State} {i : Instr}

/-- What the rule of token `i` does from the state `m` in which its material is taken, when it completes: a byte is
emitted, a copy loop runs to its end, or the block is closed. -/
inductive Completes : Instr → State → State → Prop
  | lit (v : Byte) {m : State} (room : m.wc.toNat < m.params.outCap) : Completes (.lit v) m (m.appendOut v)
  | copy {i : Instr} {d l : Nat} {m t : State} (numbers : copyNumbers i = some (d, l)) (pos : 1 ≤ d) (nonempty : 1 ≤ l)
      (reach : d ≤ m.wc.toNat) (copied : copyBytes l (m.wc.toNat - d) m = .ok () t) : Completes i m t
  | eos (lo hi : Byte) (m : State) : Completes (.eos lo hi) m m.closeBlock

theorem completes_of_copyNumbers {d l : Nat} (numbers : copyNumbers i = some (d, l)) (wf : i.wellFormed = true)
    (h : exec i m = .next t) (hb : t.engine = .busy) : Completes i m t := by
  obtain ⟨pos, le, two, most⟩ := copyNumbers_range wf numbers
  rw [exec_of_copyNumbers numbers] at h
  have done := ok_of_settle_busy h hb
  rcases copy_offsetOf_cases pos le most m with ⟨_, e⟩ | ⟨reach, e⟩ <;> rw [e] at done
  · cases done
  · exact .copy numbers pos (by omega) reach done

/-- A token's rule that has not raised has completed. -/
theorem completes_of_exec (wf : i.wellFormed = true) (token : i ≠ .start) (h : exec i m = .next t)
    (hb : t.engine = .busy) : Completes i m t := by
  cases i with
  | lit v =>
    obtain ⟨-, room, rfl⟩ := emit_eq_ok (ok_of_settle_busy h hb)
    exact .lit v room
  | scopy a b v => exact completes_of_copyNumbers rfl wf h hb
  | lcopy lo hi => exact completes_of_copyNumbers rfl wf h hb
  | xcopy lo hi n => exact completes_of_copyNumbers rfl wf h hb
  | eos lo hi =>
    have closed : blockEnd m = .ok () t := ok_of_settle_busy h hb
    rcases blockEnd_cases m with ⟨_, e⟩ | ⟨_, e⟩ <;> rw [e] at closed <;> cases closed
    exact .eos lo hi m
  | start => exact absurd rfl token

/-- A token step that has not raised has fetched a token and completed it (41_token_decode.md R140). -/
theorem tokenStep_completed (h : tokenStep s = .next t) (hb : t.engine = .busy) :
    ∃ i m, fetchToken s = .ok i m ∧ CursorOnly s m ∧ Completes i m t := by
  rcases tokenStep_cases s with ⟨i, m, fetched, e⟩ | ⟨r, m, _, e⟩ <;> rw [e] at h
  · obtain ⟨wf, token⟩ := wellFormed_of_readToken fetched
    exact ⟨i, m, fetched, (fetchToken_frame s).1 i m fetched, completes_of_exec wf token h hb⟩
  · cases h
    cases hb

theorem produced_of_copyNumbers {d l : Nat} (h : copyNumbers i = some (d, l)) : produced i = l := by
  cases i <;> cases h <;> rfl

theorem expandToken_of_copyNumbers {d l : Nat} (h : copyNumbers i = some (d, l)) (out : List Byte) :
    expandToken out i = expandCopy d l out := by
  cases i <;> cases h <;> rfl

namespace Completes

/-- A copy that completes had its distance within the output, and repeats the pattern (42_copy_engine.md R162). -/
theorem copiedFrom (h : Completes i m t) (legal : m.params.legal) {d l : Nat} (hn : copyNumbers i = some (d, l)) :
    d ≤ m.wc.toNat ∧ CopiedFrom m t d l := by
  cases h with
  | lit v => cases hn
  | copy numbers pos nonempty reach copied =>
    obtain ⟨rfl, rfl⟩ := Prod.mk.inj (Option.some.inj (numbers.symm.trans hn))
    exact ⟨reach, copiedFrom_of_copyBytes_ok legal pos reach nonempty copied⟩
  | eos lo hi => cases hn

/-- Every token but `EOS` changes OUT and `WC` alone. -/
theorem frame (h : Completes i m t) (other : ∀ lo hi, i ≠ .eos lo hi) : t = { m with out := t.out, wc := t.wc } := by
  cases h with
  | lit v => rfl
  | @copy _ d l _ _ _ _ _ _ copied =>
    have frame := copyBytes_frame l (m.wc.toNat - d) m
    rwa [copied] at frame
  | eos lo hi => exact absurd rfl (other lo hi)

/-- `EOS` closes the block (43_block_chainer.md R176). -/
theorem eq_closeBlock {lo hi : Byte} (h : Completes (.eos lo hi) m t) : t = m.closeBlock := by
  cases h with
  | copy numbers => cases numbers
  | eos => rfl

/-- The bit cursor and `SP` are those the fetch has left, and what lies in front of them is the same. -/
theorem cursor_eq (h : Completes i m t) :
    t.window = m.window ∧ t.count = m.count ∧ t.sp = m.sp ∧ t.cursorLoaded = m.cursorLoaded ∧
      t.stream = m.stream ∧ t.params = m.params ∧ t.blkOutBase = m.blkOutBase := by
  rcases em (∃ lo hi, i = .eos lo hi) with ⟨lo, hi, rfl⟩ | other
  · rw [h.eq_closeBlock]
    exact ⟨rfl, rfl, rfl, rfl, rfl, rfl, rfl⟩
  · rw [h.frame fun lo hi e => other ⟨lo, hi, e⟩]
    exact ⟨rfl, rfl, rfl, rfl, rfl, rfl, rfl⟩

/-- `WC` advances by the token's output length (41_token_decode.md R148). -/
theorem wc_toNat (h : Completes i m t) (legal : m.params.legal) : t.wc.toNat = m.wc.toNat + produced i := by
  cases h with
  | lit v room => exact appendOut_wc_toNat legal room v
  | copy numbers pos nonempty reach copied =>
    obtain ⟨n, rfl⟩ := Nat.exists_eq_succ_of_ne_zero (Nat.ne_of_gt nonempty)
    obtain ⟨-, outRoom⟩ := room_of_copyBytes_ok legal copied
    obtain ⟨frame, -, -⟩ := copiedFrom_of_copyBytes_ok legal pos reach nonempty copied
    have := legal.2.2
    rw [frame, produced_of_copyNumbers numbers, BitVec.toNat_add, BitVec.toNat_ofNat]
    omega
  | eos lo hi => rfl

/-- The output becomes what the reference decoder makes of the token (41_token_decode.md R141 to R145). -/
theorem outBytes_eq (h : Completes i m t) (legal : m.params.legal) : t.outBytes = expandToken m.outBytes i := by
  cases h with
  | lit v room => exact appendOut_outBytes legal room v
  | copy numbers pos nonempty reach copied =>
    rw [copyBytes_outBytes legal pos reach copied, expandToken_of_copyNumbers numbers]
  | eos lo hi => rfl

/-- `EOS` alone leaves the decode call (41_token_decode.md R145). -/
theorem phase_eq (h : Completes i m t) (other : ∀ lo hi, i ≠ .eos lo hi) : t.phase = m.phase := by
  rw [h.frame other]

end Completes

end Sys2Proof.Machine

open Sys2Proof Sys2Proof.Machine

/-- Settles O21: the fetch counts the token's bits and bytes and moves the cursor alone, and the token's rule, which
leaves the cursor, counts its output. -/
theorem tokenStepAccounting : Obligations.TokenStepAccounting := by
  intro s t hm hb hp legal pos _ h hb'
  have grows := engineStep_outputGrows legal (by rwa [← step_of_no_move hm])
  rw [step_of_token hm hb hp] at h
  obtain ⟨i, m, fetched, moved, completed⟩ := tokenStep_completed h hb'
  obtain ⟨window, count, sp, loaded, -, -, -⟩ := completed.cursor_eq
  obtain ⟨bits, bytes, forward⟩ := fetchToken_counts pos fetched
  have legal' : m.params.legal := moved.params_eq ▸ legal
  refine ⟨i, m, fetched, moved, window, count, sp, loaded, by rwa [count], by rwa [sp], ?_, by rwa [sp],
    fun d l hn => ?_, fun other => ?_, fun lo hi e => ?_, grows.2⟩
  · rw [completed.wc_toNat legal', moved.wc_eq]
  · rw [← moved.wc_eq]
    exact completed.copiedFrom legal' hn
  · have frame := completed.frame other
    rw [moved] at frame
    rw [frame]
  · subst e
    rw [completed.eq_closeBlock, moved]
    rfl
end

/-! ## Runs, and the decode call that ends in `EOS` (41_token_decode.md R149) -/

section
namespace Sys2Proof.Machine

variable {s t u : State} {j k : Nat}

/-! ### Runs of the engine -/

theorem run_succ_eq_next : run (k + 1) s = .next t ↔ ∃ u, step s = .next u ∧ run k u = .next t := by
  rw [run]
  cases step s <;> simp

/-- The rest of a run, from a state on its way. -/
theorem run_rest (hj : j ≤ k) (h : run j s = .next u) (h' : run k s = .next t) : run (k - j) u = .next t := by
  induction j generalizing s k with
  | zero => cases h; exact h'
  | succ j ih =>
    obtain ⟨k, rfl⟩ := Nat.exists_eq_add_of_le' hj
    obtain ⟨v, first, rest⟩ := run_succ_eq_next.mp h
    obtain ⟨v', first', rest'⟩ := run_succ_eq_next.mp (show run (k + j + 1) s = .next t from h')
    obtain rfl : v = v' := by
      rw [first] at first'
      cases first'
      rfl
    rw [← Nat.add_assoc, Nat.add_sub_add_right]
    exact ih (Nat.le_add_left j k) rest rest'

/-- What every step of the engine keeps, a run without host moves keeps. -/
theorem run_keeps {P : State → Prop} (keeps : ∀ {s t}, P s → engineStep s = .next t → P t)
    (quiet : s.hostMoves = []) (hs : P s) (h : run k s = .next t) : P t ∧ t.hostMoves = [] := by
  induction k generalizing s with
  | zero => cases h; exact ⟨hs, quiet⟩
  | succ k ih =>
    obtain ⟨u, first, rest⟩ := run_succ_eq_next.mp h
    rw [step_of_no_move quiet] at first
    obtain ⟨-, -, -, -, -, -, moves, -⟩ := inputs_eq_iff.mp (engineStep_inputs first)
    exact ih (moves.trans quiet) (keeps hs first) rest

/-- A run of the engine that is in `BUSY` at its end was there at its start (10_state.md R46; log 19). -/
theorem busy_of_run (quiet : s.hostMoves = []) (h : run k s = .next t) (hb : t.engine = .busy) :
    s.engine = .busy := by
  by_contra idle
  have keeps : ∀ {s t : State}, s.engine ≠ .busy → engineStep s = .next t → t.engine ≠ .busy := by
    intro s t hs h
    rw [engineStep, if_neg hs] at h
    cases h
    exact hs
  exact (run_keeps keeps quiet idle h).1 hb

/-- The output grows along a run of the engine (43_block_chainer.md R179). -/
theorem run_outputGrows (quiet : s.hostMoves = []) (legal : s.params.legal) (h : run k s = .next t) :
    OutputGrows s t := by
  have keeps : ∀ {u v : State}, u.params.legal ∧ OutputGrows s u → engineStep u = .next v →
      v.params.legal ∧ OutputGrows s v := by
    rintro u v ⟨legal, grows⟩ h
    obtain ⟨-, -, -, params, -⟩ := inputs_eq_iff.mp (engineStep_inputs h)
    exact ⟨params ▸ legal, grows.trans (engineStep_outputGrows legal h)⟩
  exact (run_keeps keeps quiet ⟨legal, .of_eq rfl rfl⟩ h).1.2

/-! ### Completed tokens, one after another -/

/-- Token steps lead from `s` to `t` and complete the tokens of the list in turn. -/
def CompletesAll : List Instr → State → State → Prop
  | [], s, t => s = t
  | i :: tokens, s, t =>
    ∃ m u, fetchToken s = .ok i m ∧ CursorOnly s m ∧ Completes i m u ∧ CompletesAll tokens u t

theorem decodeNext_of_fetched {i : Instr} {m : State} (h : fetchToken s = .ok i m) :
    decodeNext s.stream = .ok i m.stream := by
  rcases fetchToken_stream s with ⟨j, u, e, e'⟩ | ⟨_, u, e, _⟩ <;> rw [e] at h <;> cases h
  exact e'

namespace CompletesAll

variable {tokens : List Instr}

/-- They are the tokens of the byte stream (30_encoding.md R97). -/
theorem takes (h : CompletesAll tokens s t) : Takes decodeNext tokens s.stream t.stream := by
  induction tokens generalizing s with
  | nil => cases h; rfl
  | cons i tokens ih =>
    obtain ⟨m, u, fetched, -, completed, rest⟩ := h
    obtain ⟨-, -, -, -, stream, -, -⟩ := completed.cursor_eq
    exact ⟨m.stream, decodeNext_of_fetched fetched, stream ▸ ih rest⟩

theorem blkOutBase_eq (h : CompletesAll tokens s t) : t.blkOutBase = s.blkOutBase := by
  induction tokens generalizing s with
  | nil => cases h; rfl
  | cons i tokens ih =>
    obtain ⟨m, u, -, moved, completed, rest⟩ := h
    obtain ⟨-, -, -, -, -, -, base⟩ := completed.cursor_eq
    rw [ih rest, base, moved.blkOutBase_eq]

/-- The output is what the reference decoder makes of the tokens, and `WC` counts it (41_token_decode.md R149). -/
theorem output (h : CompletesAll tokens s t) (legal : s.params.legal) :
    t.wc.toNat = s.wc.toNat + (tokens.map produced).sum ∧ t.outBytes = expand s.outBytes tokens := by
  induction tokens generalizing s with
  | nil => cases h; exact ⟨rfl, rfl⟩
  | cons i tokens ih =>
    obtain ⟨m, u, -, moved, completed, rest⟩ := h
    have legal' : m.params.legal := moved.params_eq ▸ legal
    obtain ⟨-, -, -, -, -, params, -⟩ := completed.cursor_eq
    obtain ⟨wc, out⟩ := ih rest (params ▸ legal')
    rw [wc, out, completed.wc_toNat legal', completed.outBytes_eq legal', moved.wc_eq, moved.outBytes_eq]
    exact ⟨by rw [List.map_cons, List.sum_cons, Nat.add_assoc], rfl⟩

end CompletesAll

/-- `EOS` adds nothing to the output (41_token_decode.md R145). -/
theorem produced_append_eos (body : List Instr) (lo hi : Byte) :
    ((body ++ [Instr.eos lo hi]).map produced).sum = (body.map produced).sum := by
  rw [List.map_append, List.sum_append]
  rfl

theorem expand_append_eos (out : List Byte) (body : List Instr) (lo hi : Byte) :
    expand out (body ++ [.eos lo hi]) = expand out body := by
  simp [expand, expandToken, copyNumbers]

/-- A run that first leaves the decode call after `k` steps, and not for a fault, completes `k` tokens of which the last
alone is `EOS` (41_token_decode.md R149). -/
theorem completesAll_of_run (quiet : s.hostMoves = []) (hp : s.phase = .token) (h : run k s = .next t)
    (hb : t.engine = .busy) (hp' : t.phase = .blockBegin)
    (inside : ∀ j u, j < k → run j s = .next u → u.phase = .token) :
    ∃ body lo hi, body.length + 1 = k ∧ (∀ i ∈ body, ∀ lo hi, i ≠ .eos lo hi) ∧
      CompletesAll (body ++ [.eos lo hi]) s t := by
  induction k generalizing s with
  | zero =>
    cases h
    rw [hp] at hp'
    cases hp'
  | succ k ih =>
    have busy := busy_of_run quiet h hb
    obtain ⟨u, first, rest⟩ := run_succ_eq_next.mp h
    have engine := first
    rw [step_of_no_move quiet] at engine
    obtain ⟨-, -, -, -, -, -, moves, -⟩ := inputs_eq_iff.mp (engineStep_inputs engine)
    have quiet' := moves.trans quiet
    have busy' := busy_of_run quiet' rest hb
    rw [engineStep_of_token busy hp] at engine
    obtain ⟨i, m, fetched, moved, completed⟩ := tokenStep_completed engine busy'
    by_cases eos : ∃ lo hi, i = .eos lo hi
    · obtain ⟨lo, hi, rfl⟩ := eos
      have closed : u.phase = .blockBegin := by rw [completed.eq_closeBlock, closeBlock_phase]
      obtain rfl : k = 0 := by
        by_contra more
        have := inside 1 u (by omega) (run_succ_eq_next.mpr ⟨u, first, rfl⟩)
        rw [closed] at this
        cases this
      cases rest
      exact ⟨[], lo, hi, rfl, by simp, m, t, fetched, moved, completed, rfl⟩
    · have other : ∀ lo hi, i ≠ .eos lo hi := fun lo hi e => eos ⟨lo, hi, e⟩
      have phase : u.phase = .token := by rw [completed.phase_eq other, moved.phase_eq, hp]
      obtain ⟨body, lo, hi, length, plain, all⟩ := ih quiet' phase rest fun j v hj hv =>
        inside (j + 1) v (Nat.succ_lt_succ hj) (run_succ_eq_next.mpr ⟨u, first, hv⟩)
      refine ⟨i :: body, lo, hi, by rw [List.length_cons, length], ?_, m, u, fetched, moved, completed, all⟩
      exact List.forall_mem_cons.mpr ⟨other, plain⟩

end Sys2Proof.Machine

open Sys2Proof Sys2Proof.Machine

/-- Settles O43: the run completes a list of tokens that ends in `EOS`; what they take from the byte stream and add to
the output is their sum, and the output grows from each state of the run to the next. -/
theorem decodeCallProducesItsTokens : Obligations.DecodeCallProducesItsTokens := by
  intro s t k inv quiet _ hp h hb' hp' inside
  have legal := inv.params_legal
  obtain ⟨body, lo, hi, length, plain, all⟩ := completesAll_of_run quiet hp h hb' hp' inside
  obtain ⟨wc, out⟩ := all.output legal
  rw [produced_append_eos] at wc
  rw [expand_append_eos] at out
  have between := (run_keeps Invariant.engineStep quiet inv h).1.between_blocks hb' hp'
  refine ⟨body, lo, hi, t.stream, decodeTokens_of_takes plain (by omega) all.takes,
    bytesLeft_of_end (by rw [between.1]), length, wc, fun start => ?_, out, fun j u hj hu => ?_⟩
  · rw [State.blkProduced, all.blkOutBase_eq, ← start, BitVec.toNat_sub_of_le (BitVec.le_def.mpr (by omega))]
    omega
  · obtain ⟨quietU, legalU⟩ : u.hostMoves = [] ∧ u.params.legal :=
      have kept := run_keeps Invariant.engineStep quiet inv hu
      ⟨kept.2, kept.1.params_legal⟩
    have later := run_outputGrows quietU legalU (run_rest hj hu h)
    exact ⟨(run_outputGrows quiet legal hu).1, later.1, fun a ha => later.2 a (.inl ha)⟩
end

/-! ## The copy tokens and the literal: completed, or cut short by a cap (42_copy_engine.md R160, R162, R165) -/

section
namespace Sys2Proof.Machine

variable {s t : State} {i : Instr} {d l : Nat}

/-- A copy token whose distance lies within the output runs the copy loop (42_copy_engine.md R161). -/
theorem exec_copy_of_reach (wf : i.wellFormed = true) (numbers : copyNumbers i = some (d, l))
    (reach : d ≤ s.wc.toNat) : exec i s = settle (copyBytes l (s.wc.toNat - d) s) := by
  obtain ⟨pos, le, -, most⟩ := copyNumbers_range wf numbers
  rw [exec_of_copyNumbers numbers]
  rcases copy_offsetOf_cases pos le most s with ⟨short, _⟩ | ⟨_, e⟩
  · omega
  · rw [e]

/-- Room for `n` bytes is room for `n` bytes under each cap. -/
theorem le_roomLeft_iff {n : Nat} (block : s.wc.toNat ≤ s.blkOutBase.toNat + s.params.blockCap)
    (out : s.wc.toNat ≤ s.params.outCap) :
    n ≤ s.roomLeft ↔ s.wc.toNat + n ≤ s.blkOutBase.toNat + s.params.blockCap ∧ s.wc.toNat + n ≤ s.params.outCap := by
  rw [State.roomLeft]
  omega

/-- An emission without room raises for the cap that is lower, the per-call cap where both are equal
(42_copy_engine.md R160). -/
theorem emit_of_roomLeft_eq_zero (full : s.roomLeft = 0) (out : s.wc.toNat ≤ s.params.outCap) (v : Byte) :
    emit v s = .stop ⟨.outputOverflow,
      if s.blkOutBase.toNat + s.params.blockCap ≤ s.params.outCap then 0#32 else 1#32⟩ s := by
  rw [State.roomLeft] at full
  rcases emit_cases v s with ⟨blockFull, e⟩ | ⟨blockRoom, outFull, e⟩ | ⟨blockRoom, outRoom, _⟩
  · rw [e, if_pos (by omega)]
  · rw [e, if_neg (by omega)]
  · omega

namespace CopiedFrom

theorem params_eq (copied : CopiedFrom s t d l) : t.params = s.params := by
  obtain ⟨frame, -, -⟩ := copied
  rw [frame]

theorem blkOutBase_eq (copied : CopiedFrom s t d l) : t.blkOutBase = s.blkOutBase := by
  obtain ⟨frame, -, -⟩ := copied
  rw [frame]

/-- `WC` after a copy below the buffer's end (42_copy_engine.md R162). -/
theorem wc_toNat (copied : CopiedFrom s t d l) (legal : s.params.legal)
    (outRoom : s.wc.toNat + l ≤ s.params.outCap) : t.wc.toNat = s.wc.toNat + l := by
  obtain ⟨frame, -, -⟩ := copied
  obtain ⟨-, -, outCap⟩ := legal
  rw [frame, BitVec.toNat_add, BitVec.toNat_ofNat]
  omega

/-- After a copy of all the bytes that fit, `WC` is at a cap. -/
theorem roomLeft_eq_zero (copied : CopiedFrom s t d s.roomLeft)
    (wc : t.wc.toNat = s.wc.toNat + s.roomLeft) : t.roomLeft = 0 := by
  rw [State.roomLeft, copied.params_eq, copied.blkOutBase_eq, wc, State.roomLeft]
  omega

end CopiedFrom

/-- A copy loop with more bytes to write than fit writes those that fit and raises OutputOverflow at the next one
(42_copy_engine.md R165). -/
theorem copyBytes_cutShort (legal : s.params.legal) (pos : 1 ≤ d) (reach : d ≤ s.wc.toNat)
    (block : s.wc.toNat ≤ s.blkOutBase.toNat + s.params.blockCap) (out : s.wc.toNat ≤ s.params.outCap)
    (short : s.roomLeft < l) :
    ∃ t, CopiedFrom s t d s.roomLeft ∧ copyBytes l (s.wc.toNat - d) s = .stop ⟨.outputOverflow,
      if s.blkOutBase.toNat + s.params.blockCap ≤ s.params.outCap then 0#32 else 1#32⟩ t := by
  obtain ⟨blockRoom, outRoom⟩ := (le_roomLeft_iff block out).mp le_rfl
  obtain ⟨t, fits, copied⟩ := copyBytes_copiedFrom legal pos reach blockRoom outRoom
  have wc := copied.wc_toNat legal outRoom
  have below : t.wc.toNat ≤ t.params.outCap := by rwa [wc, copied.params_eq]
  obtain ⟨more, rfl⟩ := Nat.exists_eq_add_of_lt short
  refine ⟨t, copied, ?_⟩
  rw [Nat.add_assoc, copyBytes_add, fits, andThen_ok, copyBytes_succ,
    emit_of_roomLeft_eq_zero (copied.roomLeft_eq_zero wc) below, andThen_stop, copied.blkOutBase_eq, copied.params_eq]

end Sys2Proof.Machine

open Sys2Proof Sys2Proof.Machine

/-- Settles O13: the token runs the copy loop, which has the room to repeat the pattern. -/
theorem copyTokensRepeatThePattern : Obligations.CopyTokensRepeatThePattern := by
  intro i d l s wf numbers legal reach blockRoom outRoom
  obtain ⟨pos, -, -, -⟩ := copyNumbers_range wf numbers
  obtain ⟨t, done, copied⟩ := copyBytes_copiedFrom legal pos reach blockRoom outRoom
  exact ⟨t, by rw [exec_copy_of_reach wf numbers reach, done, settle], copied⟩

/-- Settles O15: the loop is the copy of the bytes that fit, then an emission without room. -/
theorem copyCutShortLeavesItsFirstBytes : Obligations.CopyCutShortLeavesItsFirstBytes := by
  intro i d l s wf numbers legal reach block out short
  obtain ⟨pos, -, -, -⟩ := copyNumbers_range wf numbers
  obtain ⟨t, copied, stopped⟩ := copyBytes_cutShort legal pos reach block out short
  exact ⟨t, copied, by rw [exec_copy_of_reach wf numbers reach, stopped, settle]⟩

/-- Settles O11, from the three ways an emission can end. -/
theorem litEmitsItsByteOrOverflows : Obligations.LitEmitsItsByteOrOverflows := by
  intro v s legal
  refine ⟨exec_lit_of_blockFull, exec_lit_of_outFull, fun blockRoom outRoom => ?_⟩
  exact ⟨s.appendOut v, exec_lit_of_room blockRoom outRoom, rfl, appendOut_wc_toNat legal outRoom v,
    read_write_same _ _ _, fun a ha => read_write_other _ _ _ _ ha⟩
end

/-! ## START, BlockBegin and BlockEnd as steps (43_block_chainer.md R171, R174, R176) -/

section
namespace Sys2Proof.Machine

variable {s t : State}

theorem engineStep_of_blockBegin (hb : s.engine = .busy) (hp : s.phase = .blockBegin) :
    engineStep s = settle (blockBegin s) := by
  rw [engineStep, if_pos hb, hp]

theorem listExhausted_iff : s.listExhausted = true ↔ s.zidx = 33#6 ∨ s.zslot s.zidx.toNat = 0#32 := by
  simp [State.listExhausted]

theorem listExhausted_of_listed (slot : s.zidx ≠ 33#6) (listed : s.zslot s.zidx.toNat ≠ 0#32) :
    s.listExhausted = false :=
  Bool.eq_false_iff.mpr fun exhausted => (listExhausted_iff.mp exhausted).elim slot listed

theorem blockBegin_of_exhausted (exhausted : s.listExhausted = true) : blockBegin s = .ok () s.finish := by
  rw [blockBegin, if_pos exhausted]

/-- A listed block that reaches beyond `SRC_LEN` is not opened (43_block_chainer.md R174). -/
theorem blockBegin_of_tooLong (more : s.listExhausted = false)
    (long : s.srcLen.toNat < s.blkSrcLimit.toNat + (s.zslot s.zidx.toNat).toNat) :
    blockBegin s = .stop ⟨.sourceTruncated, 1#32⟩ s := by
  rw [blockBegin, more, if_neg (by decide), if_pos long]

/-- A listed block within `SRC_LEN` is opened, and its first two bytes are loaded (43_block_chainer.md R174). -/
theorem blockBegin_of_fits (more : s.listExhausted = false)
    (fits : s.blkSrcLimit.toNat + (s.zslot s.zidx.toNat).toNat ≤ s.srcLen.toNat) :
    blockBegin s = (reload s.openBlock).andThen fun _ t => .ok () t.enterTokens := by
  rw [blockBegin, more, if_neg (by decide), if_neg fits.not_gt, initCursor]

/-- Only `EOS` compares counts: a token step that raises ZblockSizeMismatch does so inside the decode call, with the
consumed count it has found (43_block_chainer.md R176). -/
theorem tokenRule_mismatch :
    TokenRule InDecodeCall (fun t => t.faultCause = .none) fun r u =>
      r.cause = .zblockSizeMismatch →
        InDecodeCall u ∧ u.sp.toNat ≠ u.blkSrcBase.toNat + (u.zslot u.zidx.toNat).toNat ∧
          r.info = u.sp - u.blkSrcBase where
  busy h := h.busy
  takes_bit {s} h := by
    have kept := (InDecodeCall.rule.takes_bit h).1
    rcases nextBit_cases s with ⟨_, e⟩ | ⟨_, _, e⟩ | ⟨_, _, e⟩ <;> rw [e] at kept ⊢
    · exact yields_ok.mpr (kept _ _ rfl)
    · exact yields_ok.mpr (kept _ _ rfl)
    · exact yields_stop.mpr (by simp)
  takes_byte {s} h := by
    have kept := (InDecodeCall.rule.takes_byte h).1
    rcases srcByte_cases s with ⟨_, e⟩ | ⟨_, e⟩ <;> rw [e] at kept ⊢
    · exact yields_ok.mpr (kept _ _ rfl)
    · exact yields_stop.mpr (by simp)
  emits {s} h v := by
    have kept := (InDecodeCall.rule.emits h v).1
    rcases emit_cases v s with ⟨_, e⟩ | ⟨_, _, e⟩ | ⟨_, _, e⟩ <;> rw [e] at kept ⊢
    · exact yields_stop.mpr (by simp)
    · exact yields_stop.mpr (by simp)
    · exact yields_ok.mpr (kept _ _ rfl)
  refuses_copy := by simp
  closes {s} h := by
    rcases blockEnd_cases s with ⟨_, e⟩ | ⟨other, e⟩ <;> rw [e]
    · exact yields_ok.mpr (h.inv.cause_none (not_fault_of_busy h.busy))
    · exact yields_stop.mpr fun _ => ⟨h, other, rfl⟩
  ends h := h.inv.cause_none (not_fault_of_busy h.busy)

/-- BlockBegin raises SourceTruncated alone (43_block_chainer.md R174). -/
theorem blockBegin_raises_sourceTruncated (none : s.faultCause = .none) :
    Yields (fun t => t.faultCause = .none) (fun r _ => r.cause = .sourceTruncated) (blockBegin s) := by
  rcases blockBegin_cases s with ⟨_, e⟩ | ⟨_, _, e⟩ | ⟨_, _, _, e⟩ | ⟨_, _, _, e⟩ <;> rw [e]
  · exact yields_ok.mpr none
  · exact yields_stop.mpr rfl
  · exact yields_stop.mpr rfl
  · exact yields_ok.mpr none

/-- In a run a mismatch finds fewer bytes consumed than listed: `SP` stays at or below `BLK_SRC_LIMIT`
(43_block_chainer.md R176). -/
theorem InDecodeCall.consumed_lt_listed (h : InDecodeCall s)
    (other : s.sp.toNat ≠ s.blkSrcBase.toNat + (s.zslot s.zidx.toNat).toNat) :
    s.sp.toNat - s.blkSrcBase.toNat < (s.zslot s.zidx.toNat).toNat ∧
      (s.sp - s.blkSrcBase).toNat = s.sp.toNat - s.blkSrcBase.toNat := by
  obtain ⟨base, inside⟩ := h.inv.cursor_window
  obtain ⟨-, -, -, -, -, limit, -⟩ := h.inv.in_block h.busy h.phase
  exact ⟨by omega, BitVec.toNat_sub_of_le (BitVec.le_def.mpr base)⟩

/-- A step of the engine that ends with ZblockSizeMismatch recorded ends with the short count recorded. -/
theorem engineStep_mismatch (h : Invariant s) (hb : s.engine = .busy) (he : engineStep s = .next t)
    (mismatch : t.faultCause = .zblockSizeMismatch) :
    t.sp.toNat - t.blkSrcBase.toNat < (t.zslot t.zidx.toNat).toNat ∧
      t.faultInfo.toNat = t.sp.toNat - t.blkSrcBase.toNat := by
  have none := h.cause_none (not_fault_of_busy hb)
  rcases engineStep_cases s with ⟨idle, _⟩ | ⟨_, _, e⟩ | ⟨_, hp, e⟩
  · exact absurd hb idle
  · rcases (blockBegin_raises_sourceTruncated none).settle_cases (e ▸ he) with ht | ⟨r, u, hr, rfl⟩
    · simp [ht] at mismatch
    · simp [hr] at mismatch
  · rcases tokenRule_mismatch.tokenStep ⟨h, hb, hp⟩ (e ▸ he) with ht | ⟨r, u, hr, rfl⟩
    · simp [ht] at mismatch
    · obtain ⟨inside, other, info⟩ := hr mismatch
      obtain ⟨short, count⟩ := inside.consumed_lt_listed other
      exact ⟨short, by rw [enterFault_faultInfo, info, count]; rfl⟩

/-- Only an exhausted list ends a chain (43_block_chainer.md R173, R174). -/
theorem engineStep_done (hb : s.engine = .busy) (h : engineStep s = .next t) (done : t.engine = .done) :
    s.phase = .blockBegin ∧ s.listExhausted = true ∧ t = s.finish := by
  rcases engineStep_engine h with same | ⟨_, hp, hx, _⟩ | ⟨_, fault, _⟩
  · simp [same, hb] at done
  · rw [engineStep_of_listExhausted hb hp hx] at h
    cases h
    exact ⟨hp, hx, rfl⟩
  · simp [fault] at done

end Sys2Proof.Machine

open Sys2Proof Sys2Proof.Machine

/-- Settles O17, from the four states START can find, and the empty list after reset. -/
theorem startBeginsAChain : Obligations.StartBeginsAChain := by
  refine ⟨fun _ => rfl, fun s => ⟨?_, ?_⟩, fun p => ?_⟩
  · rintro (he | he) <;> (rw [exec, execStart, he]; rfl)
  · rintro (he | he) <;> rw [exec, execStart, he]
  · have exhausted : (State.resetFor p).beginChain.listExhausted = true :=
      listExhausted_iff.mpr (.inr (by rfl))
    exact ⟨(State.resetFor p).beginChain, (State.resetFor p).beginChain.finish, rfl,
      (step_of_no_move rfl).trans (engineStep_of_listExhausted rfl rfl exhausted), rfl, rfl, rfl⟩

/-- Settles O20: the list, the block's end against `SRC_LEN`, and the room for the marker word, in this order. -/
theorem blockBeginOpensTheNextBlock : Obligations.BlockBeginOpensTheNextBlock := by
  intro s hm hb hp z opened
  have start : step s = settle (blockBegin s) := (step_of_no_move hm).trans (engineStep_of_blockBegin hb hp)
  refine ⟨fun exhausted => ?_, fun slot listed long => ?_, fun slot one fits => ?_, fun slot two fits => ?_⟩
  · exact (step_of_no_move hm).trans (engineStep_of_listExhausted hb hp (listExhausted_iff.mpr exhausted))
  · rw [start, blockBegin_of_tooLong (listExhausted_of_listed slot listed) long]
    rfl
  · have listed : s.zslot s.zidx.toNat = 1#32 := one
    have fits' : s.blkSrcLimit.toNat + (s.zslot s.zidx.toNat).toNat ≤ s.srcLen.toNat := by rwa [listed]
    have limit := openBlock_blkSrcLimit_toNat fits'
    have short : s.openBlock.blkSrcLimit.toNat < s.openBlock.sp.toNat + 2 := by
      rw [limit, listed, openBlock_sp]
      simp
    rw [start, blockBegin_of_fits (listExhausted_of_listed slot (by simp [listed])) fits', reload_of_short short]
    rfl
  · have listed : s.zslot s.zidx.toNat ≠ 0#32 := fun e => by simp [z, e] at two
    have room : s.openBlock.sp.toNat + 2 ≤ s.openBlock.blkSrcLimit.toNat := by
      rw [openBlock_blkSrcLimit_toNat fits, openBlock_sp]
      exact Nat.add_le_add_left two _
    rw [start, blockBegin_of_fits (listExhausted_of_listed slot listed) fits, reload_of_room room]
    rfl

/-- Settles O16: BlockEnd by its two cases; of a step, that the mismatch comes from BlockEnd inside a decode call, and that
between blocks `SP` is `BLK_SRC_LIMIT`. -/
theorem eosChecksTheConsumedCount : Obligations.EosChecksTheConsumedCount := by
  refine ⟨fun lo hi s all => ?_, fun lo hi s other => ?_, fun s t inv hm hb h => ?_⟩
  · rw [exec, execEos, blockEnd, if_pos all]
    rfl
  · rw [exec, execEos, blockEnd, if_neg other]
    rfl
  · rw [step_of_no_move hm] at h
    refine ⟨engineStep_mismatch inv hb h, fun hp _ hb' => ?_⟩
    obtain ⟨sp, -, -⟩ := (inv.engineStep h).between_blocks hb' hp
    exact sp

/-- Settles O25: no micro-operation of a step sets `WC` back or writes below it. -/
theorem outputOnlyGrows : Obligations.OutputOnlyGrows := fun _ _ legal h => engineStep_outputGrows legal h

/-- Settles O32: the step is BlockBegin at the list's end, and the invariant speaks of the state between blocks. -/
theorem doneMeansEveryListedBlockWasDecoded : Obligations.DoneMeansEveryListedBlockWasDecoded := by
  intro s t inv hb h done
  obtain ⟨hp, exhausted, rfl⟩ := engineStep_done hb h done
  obtain ⟨sp, -, sum⟩ := inv.between_blocks hb hp
  have noFault := not_fault_of_busy hb
  exact ⟨sp, (congrArg BitVec.toNat sp).trans sum, listExhausted_iff.mp exhausted, inv.listed hb, inv.written,
    inv.cause_none noFault, inv.info_zero noFault⟩
end

/-! ## A chain ends: the budget of steps, and RunChain as steps (43_block_chainer.md R177, 60_exceptions.md R225) -/

section
namespace Sys2Proof.Machine

variable {s t u : State} {j k fuel blocks : Nat}

/-- Two runs, one after the other. -/
theorem run_append (h : run j s = .next t) (h' : run k t = .next u) : run (j + k) s = .next u := by
  induction j generalizing s with
  | zero => cases h; rwa [Nat.zero_add]
  | succ j ih =>
    obtain ⟨v, first, rest⟩ := run_succ_eq_next.mp h
    rw [Nat.add_right_comm]
    exact run_succ_eq_next.mpr ⟨v, first, ih rest⟩

theorem run_one : run 1 s = step s := by
  rw [run]
  cases step s <;> rfl

theorem engineStep_hostMoves (h : engineStep s = .next t) : t.hostMoves = s.hostMoves := by
  obtain ⟨-, -, -, -, -, -, moves, -⟩ := inputs_eq_iff.mp (engineStep_inputs h)
  exact moves

theorem engineStep_srcLen (h : engineStep s = .next t) : t.srcLen = s.srcLen := by
  obtain ⟨-, len, -⟩ := inputs_eq_iff.mp (engineStep_inputs h)
  exact len

/-- The two ways a step of the engine stays in `BUSY`: BlockBegin opens a block, or a token completes. -/
theorem engineStep_stays_busy (hb : s.engine = .busy) (h : engineStep s = .next t) (hb' : t.engine = .busy) :
    (s.phase = .blockBegin ∧ s.listExhausted = false ∧
      s.blkSrcLimit.toNat + (s.zslot s.zidx.toNat).toNat ≤ s.srcLen.toNat ∧
      s.openBlock.sp.toNat + 2 ≤ s.openBlock.blkSrcLimit.toNat ∧ t = s.openBlock.loadMarker.enterTokens) ∨
    (s.phase = .token ∧ ∃ i m, fetchToken s = .ok i m ∧ CursorOnly s m ∧ Completes i m t) := by
  rcases engineStep_cases s with ⟨idle, _⟩ | ⟨_, hp, e⟩ | ⟨_, hp, e⟩
  · exact absurd hb idle
  · have done := ok_of_settle_busy (e ▸ h) hb'
    rcases blockBegin_cases s with ⟨_, e⟩ | ⟨_, _, e⟩ | ⟨_, _, _, e⟩ | ⟨more, fits, room, e⟩ <;> rw [e] at done <;>
      cases done
    · cases hb'
    · exact .inl ⟨hp, more, fits, room, rfl⟩
  · exact .inr ⟨hp, tokenStep_completed (e ▸ h) hb'⟩

/-- In `BUSY` the source cursor has not passed `SRC_LEN` (10_state.md R52). -/
theorem Invariant.sp_le_srcLen (h : Invariant s) (hb : s.engine = .busy) : s.sp.toNat ≤ s.srcLen.toNat := by
  obtain ⟨-, inside⟩ := h.cursor_window
  cases hp : s.phase with
  | blockBegin =>
    obtain ⟨-, fits, -⟩ := h.between_blocks hb hp
    exact inside.trans fits
  | token =>
    obtain ⟨-, -, fits, -⟩ := h.in_block hb hp
    exact inside.trans fits

/-- An upper bound on the steps that a chain still takes (60_exceptions.md R225): one for each source byte and one for each
BlockBegin. -/
def State.budget (s : State) : Nat :=
  if s.engine = .busy then (s.srcLen.toNat - s.sp.toNat) + (34 - s.zidx.toNat) else 0

theorem budget_of_busy (hb : s.engine = .busy) :
    s.budget = (s.srcLen.toNat - s.sp.toNat) + (34 - s.zidx.toNat) := if_pos hb

theorem budget_of_not_busy (hb : s.engine ≠ .busy) : s.budget = 0 := if_neg hb

/-- What a completed token does to the cursors of the chain: it takes source, `EOS` goes on to the next slot, and any
other token stays in its block. -/
theorem completed_token_progress (h : Invariant s) (hb : s.engine = .busy) (hp : s.phase = .token) {i : Instr}
    {m : State} (fetched : fetchToken s = .ok i m) (moved : CursorOnly s m) (completed : Completes i m t) :
    s.sp.toNat < t.sp.toNat ∧
      ((t.phase = .blockBegin ∧ t.zidx.toNat = s.zidx.toNat + 1) ∨
        (t.phase = .token ∧ t.zidx = s.zidx ∧ t.blkSrcLimit = s.blkSrcLimit)) := by
  have inside : InDecodeCall s := ⟨h, hb, hp⟩
  obtain ⟨-, -, sp, -, -, -, -⟩ := completed.cursor_eq
  obtain ⟨-, -, forward⟩ := fetchToken_counts inside.count_range.1 fetched
  refine ⟨by rwa [sp], ?_⟩
  by_cases eos : ∃ lo hi, i = .eos lo hi
  · obtain ⟨lo, hi, rfl⟩ := eos
    obtain ⟨-, -, -, slot, -, -, -⟩ := h.in_block hb hp
    have same : m.zidx = s.zidx := by rw [moved]
    rw [completed.eq_closeBlock, closeBlock_zidx, same, BitVec.toNat_add, BitVec.toNat_ofNat]
    exact .inl ⟨rfl, by omega⟩
  · rw [completed.frame fun lo hi e => eos ⟨lo, hi, e⟩, moved]
    exact .inr ⟨hp, rfl, rfl⟩

/-- Every step of the engine in `BUSY` uses up some of the budget. -/
theorem engineStep_budget (h : Invariant s) (hb : s.engine = .busy) (he : engineStep s = .next t) :
    t.budget < s.budget := by
  have slots := h.zidx_range
  rw [budget_of_busy hb]
  by_cases hb' : t.engine = .busy
  · have inv := h.engineStep he
    have below := inv.sp_le_srcLen hb'
    rw [engineStep_srcLen he] at below
    rw [budget_of_busy hb', engineStep_srcLen he]
    rcases engineStep_stays_busy hb he hb' with ⟨hp, -, -, room, rfl⟩ | ⟨hp, i, m, fetched, moved, completed⟩
    · have sp : s.openBlock.loadMarker.enterTokens.sp.toNat = s.sp.toNat + 2 := by
        rw [(h.between_blocks hb hp).1]
        exact loadMarker_sp_toNat room
      have slot : s.openBlock.loadMarker.enterTokens.zidx = s.zidx := rfl
      rw [slot]
      omega
    · obtain ⟨forward, ⟨-, slot⟩ | ⟨-, slot, -⟩⟩ := completed_token_progress h hb hp fetched moved completed <;>
        rw [slot] <;> omega
  · rw [budget_of_not_busy hb']
    omega

/-- Engine steps lead from `s` to `t`, and use no more steps than budget. -/
def RunsTo (s t : State) : Prop := ∃ k, run k s = .next t ∧ k + t.budget ≤ s.budget

theorem RunsTo.trans (h : RunsTo s t) (h' : RunsTo t u) : RunsTo s u := by
  obtain ⟨j, first, cost⟩ := h
  obtain ⟨k, rest, cost'⟩ := h'
  exact ⟨j + k, run_append first rest, by omega⟩

theorem RunsTo.of_engineStep (h : Invariant s) (quiet : s.hostMoves = []) (hb : s.engine = .busy)
    (he : engineStep s = .next t) : RunsTo s t :=
  ⟨1, by rw [run_one, step_of_no_move quiet, he], by have := engineStep_budget h hb he; omega⟩

theorem RunsTo.keeps (h : RunsTo s t) (inv : Invariant s) (quiet : s.hostMoves = []) :
    Invariant t ∧ t.hostMoves = [] := by
  obtain ⟨k, ran, -⟩ := h
  exact run_keeps Invariant.engineStep quiet inv ran

theorem RunsTo.srcLen_eq (h : RunsTo s t) (quiet : s.hostMoves = []) : t.srcLen = s.srcLen := by
  obtain ⟨k, ran, -⟩ := h
  have keeps : ∀ {u v : State}, u.srcLen = s.srcLen → engineStep u = .next v → v.srcLen = s.srcLen :=
    fun same he => (engineStep_srcLen he).trans same
  exact (run_keeps keeps quiet rfl ran).1

/-- The token loop of a decode call, with fuel for each source byte left, is a run that leaves the decode call: to the next
BlockBegin or to a fault (43_block_chainer.md R177). -/
theorem repeatTokens_runsTo (inside : InDecodeCall s) (quiet : s.hostMoves = [])
    (enough : s.blkSrcLimit.toNat - s.sp.toNat < fuel) :
    ∃ t, repeatTokens fuel s = .next t ∧ RunsTo s t ∧
      (t.engine = .busy → t.phase = .blockBegin ∧ t.zidx.toNat = s.zidx.toNat + 1) := by
  induction fuel generalizing s with
  | zero => omega
  | succ fuel ih =>
    obtain ⟨inv, hb, hp⟩ := inside
    obtain ⟨t, token⟩ := tokenStep_next s
    have he : engineStep s = .next t := (engineStep_of_token hb hp).trans token
    have first := RunsTo.of_engineStep inv quiet hb he
    by_cases hb' : t.engine = .busy
    · obtain ⟨i, m, fetched, moved, completed⟩ := tokenStep_completed token hb'
      obtain ⟨forward, ⟨closed, slot⟩ | ⟨more, slot, limit⟩⟩ :=
        completed_token_progress inv hb hp fetched moved completed
      · exact ⟨t, by simp [repeatTokens, token, closed], first, fun _ => ⟨closed, slot⟩⟩
      · have inv' := inv.engineStep he
        obtain ⟨-, below⟩ := inv'.cursor_window
        rw [limit] at below
        obtain ⟨u, loop, rest, ends⟩ := ih ⟨inv', hb', more⟩ ((engineStep_hostMoves he).trans quiet)
          (by rw [limit]; omega)
        exact ⟨u, by simp [repeatTokens, token, hb', more, loop], first.trans rest, slot ▸ ends⟩
    · exact ⟨t, by simp [repeatTokens, token, hb'], first, fun busy => absurd busy hb'⟩

/-- The loop of RunChain, with a round for each slot left and fuel for each source byte, is a run to the chain's end
(43_block_chainer.md R177). -/
theorem chainLoop_runsTo (inv : Invariant s) (quiet : s.hostMoves = []) (hb : s.engine = .busy)
    (hp : s.phase = .blockBegin) (slots : 34 ≤ s.zidx.toNat + blocks) (bytes : s.srcLen.toNat ≤ fuel) :
    ∃ t, chainLoop fuel blocks s = .next t ∧ RunsTo s t ∧ t.engine ≠ .busy := by
  induction blocks generalizing s with
  | zero =>
    have := inv.zidx_range
    omega
  | succ blocks ih =>
    obtain ⟨t, begun⟩ := settle_next (blockBegin s)
    have he : engineStep s = .next t := (engineStep_of_blockBegin hb hp).trans begun
    have first := RunsTo.of_engineStep inv quiet hb he
    by_cases hb' : t.engine = .busy
    · have opened : t.phase = .token ∧ t.zidx = s.zidx := by
        rcases engineStep_stays_busy hb he hb' with ⟨-, -, -, -, rfl⟩ | ⟨token, -⟩
        · exact ⟨rfl, rfl⟩
        · simp [hp] at token
      obtain ⟨inv', quiet'⟩ := first.keeps inv quiet
      obtain ⟨-, marker, limit, -⟩ := inv'.in_block hb' opened.1
      rw [first.srcLen_eq quiet] at limit
      obtain ⟨-, window⟩ := inv'.cursor_window
      obtain ⟨u, loop, tokens, ends⟩ := repeatTokens_runsTo (fuel := fuel) ⟨inv', hb', opened.1⟩ quiet'
        (by omega)
      have call := first.trans tokens
      by_cases hb'' : u.engine = .busy
      · obtain ⟨closed, slot⟩ := ends hb''
        obtain ⟨inv'', quiet''⟩ := call.keeps inv quiet
        obtain ⟨v, more, rest, ended⟩ := ih inv'' quiet'' hb'' closed (by rw [slot, opened.2]; omega)
          (by rwa [call.srcLen_eq quiet])
        exact ⟨v, by simp [chainLoop, begun, hb', loop, hb'', more], call.trans rest, ended⟩
      · exact ⟨u, by simp [chainLoop, begun, hb', loop, hb''], call, hb''⟩
    · exact ⟨t, by simp [chainLoop, begun, hb'], first, hb'⟩

end Sys2Proof.Machine

open Sys2Proof Sys2Proof.Machine

/-- Settles O34: both loops of RunChain are runs, and a run spends its budget, at most `SRC_LEN` + 34. -/
theorem runChainAgreesWithTheSteps : Obligations.RunChainAgreesWithTheSteps := by
  intro s inv quiet hb hp
  obtain ⟨t, chain, ⟨k, ran, cost⟩, ended⟩ :=
    chainLoop_runsTo (fuel := s.srcLen.toNat) (blocks := 34) inv quiet hb hp (by omega) le_rfl
  rw [budget_of_busy hb] at cost
  exact ⟨k, t, by omega, chain, ran, ended⟩
end

/-! ## Two chains over the same inputs (43_block_chainer.md R172) -/

section
namespace Sys2Proof.Machine

variable {s s' : State} {loaded loaded' : Prop}

/-- Two states in which a chain has the same inputs and has done the same: they agree on all it depends on, and on the bit
cursor once it is `loaded`. The two facts about the block's window and the output below `WC` keep every byte the chain
reads among those the states agree on. -/
structure Alike (loaded : Prop) (s s' : State) : Prop where
  quiet : s.hostMoves = []
  quiet' : s'.hostMoves = []
  legal : s.params.legal
  params : s'.params = s.params
  zlist : s'.zlist = s.zlist
  srcLen : s'.srcLen = s.srcLen
  source : ∀ i, i < s.srcLen.toNat → s'.srcAt i = s.srcAt i
  window_inside : s.blkSrcLimit.toNat ≤ s.srcLen.toNat
  engine : s'.engine = s.engine
  phase : s'.phase = s.phase
  cause : s'.faultCause = s.faultCause
  info : s'.faultInfo = s.faultInfo
  sp : s'.sp = s.sp
  wc : s'.wc = s.wc
  srcBase : s'.blkSrcBase = s.blkSrcBase
  limit : s'.blkSrcLimit = s.blkSrcLimit
  outBase : s'.blkOutBase = s.blkOutBase
  zidx : s'.zidx = s.zidx
  output : ∀ i, i < s.wc.toNat → ∃ v, Memory.read? s.out i = some v ∧ Memory.read? s'.out i = some v
  cursor : loaded → s'.window = s.window ∧ s'.count = s.count

theorem Alike.mono (h : Alike loaded s s') (weaker : loaded' → loaded) : Alike loaded' s s' :=
  { h with cursor := fun l => h.cursor (weaker l) }

theorem Alike.enterFault (h : Alike loaded s s') (r : Raise) : Alike loaded (s.enterFault r) (s'.enterFault r) :=
  { h with engine := rfl, cause := rfl, info := rfl }

/-- Two micro-operations answer the same in states alike, or raise the same in states alike. -/
def AnswerAlike {α : Type} (loaded : Prop) (m m' : Micro α) : Prop :=
  (∃ a t t', m = .ok a t ∧ m' = .ok a t' ∧ Alike loaded t t') ∨
  ∃ r r' t t', m = .stop r t ∧ m' = .stop r' t' ∧ r' = r ∧ Alike loaded t t'

/-- Two steps end in states alike, with the bit cursor loaded where they end inside a decode call. -/
def EndAlike (loaded : Prop) (o o' : Host.Outcome State Fault Refusal) : Prop :=
  ∃ t t', o = .next t ∧ o' = .next t' ∧ Alike (loaded ∨ t.phase = .token) t t'

theorem answerAlike_ok {α : Type} {a : α} (h : Alike loaded s s') :
    AnswerAlike loaded (.ok a s : Micro α) (.ok a s') := .inl ⟨a, s, s', rfl, rfl, h⟩

theorem answerAlike_stop {α : Type} {r : Raise} (h : Alike loaded s s') :
    AnswerAlike loaded (.stop r s : Micro α) (.stop r s') := .inr ⟨r, r, s, s', rfl, rfl, rfl, h⟩

theorem AnswerAlike.andThen {α β : Type} {m m' : Micro α} {f f' : α → State → Micro β}
    (h : AnswerAlike loaded m m')
    (rest : ∀ a {t t'}, Alike loaded t t' → AnswerAlike loaded (f a t) (f' a t')) :
    AnswerAlike loaded (m.andThen f) (m'.andThen f') := by
  rcases h with ⟨a, t, t', rfl, rfl, alike⟩ | ⟨r, _, t, t', rfl, rfl, rfl, alike⟩
  · exact rest a alike
  · exact answerAlike_stop alike

theorem endAlike_next (l : loaded) (h : Alike loaded s s') : EndAlike loaded (.next s) (.next s') :=
  ⟨s, s', rfl, rfl, h.mono fun _ => l⟩

theorem AnswerAlike.settle {m m' : Micro Unit} (h : AnswerAlike loaded m m') (l : loaded) :
    EndAlike loaded (settle m) (settle m') := by
  rcases h with ⟨_, t, t', rfl, rfl, alike⟩ | ⟨r, _, t, t', rfl, rfl, rfl, alike⟩
  · exact endAlike_next l alike
  · exact endAlike_next l (alike.enterFault _)

namespace Alike

theorem zslot_eq (h : Alike loaded s s') (i : Nat) : s'.zslot i = s.zslot i := by
  rw [State.zslot, h.zlist, State.zslot]

/-- Written output reads alike: stale and unwritten bytes lie at and above `WC` (43_block_chainer.md R170). -/
theorem outAt_eq (h : Alike loaded s s') {i : Nat} (below : i < s.wc.toNat) : s'.outAt i = s.outAt i := by
  obtain ⟨v, left, right⟩ := h.output i below
  rw [State.outAt, State.outAt, left, right, Option.getD_some, Option.getD_some]

/-! ### Under the updates of a step -/

theorem finish (h : Alike loaded s s') : Alike loaded s.finish s'.finish := { h with engine := rfl }

theorem enterTokens (h : Alike loaded s s') : Alike loaded s.enterTokens s'.enterTokens := { h with phase := rfl }

theorem closeBlock (h : Alike loaded s s') : Alike loaded s.closeBlock s'.closeBlock :=
  { h with phase := rfl, zidx := congrArg (· + 1#6) h.zidx }

theorem openBlock (h : Alike loaded s s')
    (fits : s.blkSrcLimit.toNat + (s.zslot s.zidx.toNat).toNat ≤ s.srcLen.toNat) :
    Alike loaded s.openBlock s'.openBlock :=
  { h with
    window_inside := (openBlock_blkSrcLimit_toNat fits).trans_le fits
    sp := h.limit
    srcBase := h.limit
    limit := by rw [openBlock_blkSrcLimit, openBlock_blkSrcLimit, h.limit, h.zidx, h.zslot_eq]
    outBase := h.wc }

theorem takeBit (h : Alike loaded s s') : Alike loaded s.takeBit s'.takeBit :=
  { h with
    cursor := fun l => by
      obtain ⟨window, count⟩ := h.cursor l
      rw [takeBit_window, takeBit_window, takeBit_count, takeBit_count, window, count]
      exact ⟨rfl, rfl⟩ }

theorem advanceSource (h : Alike loaded s s') : Alike loaded s.advanceSource s'.advanceSource :=
  { h with sp := congrArg (· + 1#32) h.sp }

/-- A marker word within the block's window: the bit cursor is the same from here on (40_bitstream_reader.md R121). -/
theorem loadMarker (h : Alike loaded s s') (room : s.sp.toNat + 2 ≤ s.blkSrcLimit.toNat) :
    Alike loaded' s.loadMarker s'.loadMarker := by
  have inside := h.window_inside
  exact
    { h with
      sp := congrArg (· + 2#32) h.sp
      cursor := fun _ => ⟨by
        rw [loadMarker_window, loadMarker_window, h.sp, h.source _ (by omega), h.source _ (by omega)], rfl⟩ }

theorem appendOut (h : Alike loaded s s') (room : s.wc.toNat < s.params.outCap) (v : Byte) :
    Alike loaded (s.appendOut v) (s'.appendOut v) :=
  { h with
    wc := congrArg (· + 1#32) h.wc
    output := fun i hi => by
      rw [appendOut_wc_toNat h.legal room] at hi
      rw [appendOut_out, appendOut_out, h.wc]
      by_cases new : i = s.wc.toNat
      · exact ⟨v, by rw [new, read_write_same], by rw [new, read_write_same]⟩
      · rw [read_write_other _ _ _ _ new, read_write_other _ _ _ _ new]
        exact h.output i (by omega) }

/-! ### Under the micro-operations -/

theorem reload (h : Alike loaded s s') : AnswerAlike loaded (reload s) (reload s') := by
  unfold Machine.reload
  rw [h.sp, h.limit]
  split_ifs with short
  · exact answerAlike_stop h
  · exact answerAlike_ok (h.loadMarker (by omega))

theorem nextBit (h : Alike loaded s s') (l : loaded) : AnswerAlike loaded (nextBit s) (nextBit s') := by
  have taken := h.takeBit
  unfold Machine.nextBit
  rw [(h.cursor l).1, (taken.cursor l).2]
  split_ifs
  · exact taken.reload.andThen fun _ _ _ alike => answerAlike_ok alike
  · exact answerAlike_ok taken

theorem srcByte (h : Alike loaded s s') : AnswerAlike loaded (srcByte s) (srcByte s') := by
  have inside := h.window_inside
  unfold Machine.srcByte
  rw [h.sp, h.limit]
  split_ifs with room
  · exact answerAlike_stop h
  · rw [h.source _ (by omega)]
    exact answerAlike_ok h.advanceSource

theorem emit (h : Alike loaded s s') (v : Byte) : AnswerAlike loaded (emit v s) (emit v s') := by
  unfold Machine.emit
  rw [h.outBase, h.params, h.wc]
  split_ifs with _ outFull
  · exact answerAlike_stop h
  · exact answerAlike_stop h
  · exact answerAlike_ok (h.appendOut (by omega) v)

/-- The copy loop reads below `WC` alone (42_copy_engine.md R161). -/
theorem copyBytes (h : Alike loaded s s') (length : Nat) {src : Nat} (below : src < s.wc.toNat) :
    AnswerAlike loaded (copyBytes length src s) (copyBytes length src s') := by
  induction length generalizing src s s' with
  | zero => exact answerAlike_ok h
  | succ n ih =>
    rw [copyBytes_succ, copyBytes_succ, h.outAt_eq below]
    rcases h.emit (s.outAt src) with ⟨_, t, t', e, e', alike⟩ | ⟨r, _, t, t', e, e', rfl, alike⟩ <;> rw [e, e']
    · obtain ⟨-, room, rfl⟩ := emit_eq_ok e
      exact ih alike (by rw [appendOut_wc_toNat h.legal room]; omega)
    · exact answerAlike_stop alike

theorem blockEnd (h : Alike loaded s s') : AnswerAlike loaded (blockEnd s) (blockEnd s') := by
  unfold Machine.blockEnd
  rw [h.sp, h.srcBase, h.zidx, h.zslot_eq]
  split_ifs
  · exact answerAlike_ok h.closeBlock
  · exact answerAlike_stop h

theorem copy (h : Alike loaded s s') {d l : Nat} (pos : 1 ≤ d) (le : d ≤ 4096) :
    AnswerAlike loaded (copy (offsetOf d) (BitVec.ofNat 32 l) s) (copy (offsetOf d) (BitVec.ofNat 32 l) s') := by
  unfold Machine.copy
  rw [h.wc, copyDistance_offsetOf pos le]
  split_ifs
  · exact answerAlike_stop h
  · exact h.copyBytes _ (by omega)

/-! ### Under a step -/

theorem exec_of_copyNumbers (h : Alike loaded s s') (l : loaded) {i : Instr} {numbers : Nat × Nat}
    (wf : i.wellFormed = true) (hn : copyNumbers i = some numbers) : EndAlike loaded (exec i s) (exec i s') := by
  obtain ⟨pos, le, -, -⟩ := copyNumbers_range wf hn
  rw [Machine.exec_of_copyNumbers hn, Machine.exec_of_copyNumbers hn]
  exact (h.copy pos le).settle l

theorem exec (h : Alike loaded s s') (l : loaded) {i : Instr} (wf : i.wellFormed = true) (token : i ≠ .start) :
    EndAlike loaded (exec i s) (exec i s') := by
  cases i with
  | lit v => exact (h.emit v).settle l
  | scopy a b v => exact h.exec_of_copyNumbers l wf rfl
  | lcopy lo hi => exact h.exec_of_copyNumbers l wf rfl
  | xcopy lo hi n => exact h.exec_of_copyNumbers l wf rfl
  | eos lo hi => exact h.blockEnd.settle l
  | start => exact absurd rfl token

theorem fetchToken (h : Alike loaded s s') (l : loaded) : AnswerAlike loaded (fetchToken s) (fetchToken s') :=
  readToken_related (Alike loaded) (fun (r : Raise) t (r' : Raise) t' => r' = r ∧ Alike loaded t t')
    (fun _ _ alike => alike.nextBit l) (fun _ _ alike => alike.srcByte) h

theorem tokenStep (h : Alike loaded s s') (l : loaded) : EndAlike loaded (tokenStep s) (tokenStep s') := by
  rcases h.fetchToken l with ⟨i, t, t', e, e', alike⟩ | ⟨r, _, t, t', e, e', rfl, alike⟩
  · rw [tokenStep_of_fetched e, tokenStep_of_fetched e']
    obtain ⟨wf, token⟩ := wellFormed_of_readToken e
    exact alike.exec l wf token
  · rw [tokenStep_of_missing e, tokenStep_of_missing e']
    exact endAlike_next l (alike.enterFault _)

theorem listExhausted_eq (h : Alike loaded s s') : s'.listExhausted = s.listExhausted := by
  rw [State.listExhausted, h.zidx, h.zslot_eq, State.listExhausted]

/-- BlockBegin reads no bit cursor; where it enters a decode call it has loaded one (43_block_chainer.md R174). -/
theorem blockBegin (h : Alike loaded s s') (outside : s.phase = .blockBegin) :
    EndAlike loaded (settle (blockBegin s)) (settle (blockBegin s')) := by
  have keep {t t' : State} (alike : Alike loaded t t') (hp : t.phase = .blockBegin) :
      Alike (loaded ∨ t.phase = .token) t t' := alike.mono fun l => l.resolve_right (by simp [hp])
  have same : s'.blkSrcLimit.toNat + (s'.zslot s'.zidx.toNat).toNat =
      s.blkSrcLimit.toNat + (s.zslot s.zidx.toNat).toNat := by rw [h.limit, h.zidx, h.zslot_eq]
  cases hx : s.listExhausted with
  | true =>
    rw [blockBegin_of_exhausted hx, blockBegin_of_exhausted (h.listExhausted_eq.trans hx)]
    exact ⟨_, _, rfl, rfl, keep h.finish outside⟩
  | false =>
    have hx' := h.listExhausted_eq.trans hx
    by_cases fits : s.blkSrcLimit.toNat + (s.zslot s.zidx.toNat).toNat ≤ s.srcLen.toNat
    · have opened := h.openBlock fits
      rw [blockBegin_of_fits hx fits, blockBegin_of_fits hx' (by rwa [same, h.srcLen])]
      rcases reload_cases s.openBlock with ⟨room, e⟩ | ⟨short, e⟩ <;> rw [e]
      · rw [reload_of_room (by rwa [opened.sp, opened.limit])]
        exact ⟨_, _, rfl, rfl, (opened.loadMarker room).enterTokens⟩
      · rw [reload_of_short (by rwa [opened.sp, opened.limit])]
        exact ⟨_, _, rfl, rfl, keep (opened.enterFault _) outside⟩
    · rw [blockBegin_of_tooLong hx (by omega), blockBegin_of_tooLong hx' (by rw [same, h.srcLen]; omega)]
      exact ⟨_, _, rfl, rfl, keep (h.enterFault _) outside⟩

theorem engineStep (h : Alike loaded s s') (l : s.phase = .token → loaded) :
    EndAlike loaded (engineStep s) (engineStep s') := by
  by_cases hb : s.engine = .busy
  · have hb' := h.engine.trans hb
    cases hp : s.phase with
    | blockBegin =>
      rw [engineStep_of_blockBegin hb hp, engineStep_of_blockBegin hb' (h.phase.trans hp)]
      exact h.blockBegin hp
    | token =>
      rw [engineStep_of_token hb hp, engineStep_of_token hb' (h.phase.trans hp)]
      exact h.tokenStep (l hp)
  · rw [Machine.engineStep, if_neg hb, Machine.engineStep, if_neg (h.engine.trans_ne hb)]
    exact ⟨s, s', rfl, rfl, h.mono fun token => token.elim id l⟩

/-- Runs from states alike stay alike, with the bit cursor alike from the first decode call on
(43_block_chainer.md R172). -/
theorem run (h : Alike loaded s s') (l : s.phase = .token → loaded) (k : Nat) :
    ∃ t t', run k s = .next t ∧ run k s' = .next t' ∧
      Alike (loaded ∨ ∃ j u, j ≤ k ∧ run j s = .next u ∧ u.phase = .token) t t' := by
  induction k generalizing s s' loaded with
  | zero =>
    refine ⟨s, s', rfl, rfl, h.mono ?_⟩
    rintro (l' | ⟨j, u, hj, hu, token⟩)
    · exact l'
    · obtain rfl := Nat.le_zero.mp hj
      cases hu
      exact l token
  | succ k ih =>
    obtain ⟨t, t', e, e', alike⟩ := h.engineStep l
    rw [← step_of_no_move h.quiet] at e
    rw [← step_of_no_move h.quiet'] at e'
    obtain ⟨u, u', ran, ran', alike'⟩ := ih alike Or.inr
    refine ⟨u, u', run_succ_eq_next.mpr ⟨t, e, ran⟩, run_succ_eq_next.mpr ⟨t', e', ran'⟩, alike'.mono ?_⟩
    rintro (l' | ⟨j, v, hj, hv, token⟩)
    · exact .inl (.inl l')
    · cases j with
      | zero => cases hv; exact .inl (.inl (l token))
      | succ j =>
        obtain ⟨w, first, rest⟩ := run_succ_eq_next.mp hv
        obtain rfl : w = t := by
          rw [e] at first
          cases first
          rfl
        exact .inr ⟨j, v, Nat.le_of_succ_le_succ hj, rest, token⟩

/-- START in two states with the same inputs, whatever chains ran before (43_block_chainer.md R171, R172). -/
theorem beginChain (inv : Invariant s) (inv' : Invariant s') (quiet : s.hostMoves = []) (quiet' : s'.hostMoves = [])
    (he : s.engine = .idle ∨ s.engine = .done) (he' : s'.engine = .idle ∨ s'.engine = .done)
    (zlist : s'.zlist = s.zlist) (srcLen : s'.srcLen = s.srcLen) (params : s'.params = s.params)
    (source : ∀ i, i < s.srcLen.toNat → s'.srcAt i = s.srcAt i) : Alike False s.beginChain s'.beginChain := by
  have noFault {u : State} (hu : u.engine = .idle ∨ u.engine = .done) : u.engine ≠ .fault := by
    rcases hu with e | e <;> simp [e]
  exact
    { quiet, quiet', zlist, srcLen, params, source
      legal := inv.params_legal
      window_inside := Nat.zero_le _
      engine := rfl
      phase := rfl
      cause := (inv'.cause_none (noFault he')).trans (inv.cause_none (noFault he)).symm
      info := (inv'.info_zero (noFault he')).trans (inv.info_zero (noFault he)).symm
      sp := rfl
      wc := rfl
      srcBase := rfl
      limit := rfl
      outBase := rfl
      zidx := rfl
      output := by simp
      cursor := False.elim }

end Alike

end Sys2Proof.Machine

open Sys2Proof Sys2Proof.Machine

/-- Settles O35: START makes the two states alike, and every step of the engine keeps them alike. -/
theorem chainDependsOnItsInputsAlone : Obligations.ChainDependsOnItsInputsAlone := by
  intro s s' inv inv' quiet quiet' he he' zlist srcLen params source k
  have start := Alike.beginChain inv inv' quiet quiet' he he' zlist srcLen params source
  obtain ⟨t, t', ran, ran', alike⟩ := start.run (by simp) k
  refine ⟨t, t', ran, ran', alike.engine, alike.cause, alike.info, alike.sp, alike.wc, alike.srcBase, alike.limit,
    alike.outBase, alike.zidx, alike.phase, fun i hi => ?_,
    fun j u hj hu token => alike.cursor (.inr ⟨j, u, hj, hu, token⟩)⟩
  obtain ⟨v, left, right⟩ := alike.output i hi
  rw [left, right]
end

/-! ## The output of a chain, block by block (43_block_chainer.md R178) -/

section
namespace Sys2Proof

/-- Reading one item more. -/
theorem takes_append_singleton {ε σ α : Type} {read : σ → Reading ε σ α} {xs : List α} {x : α} {s t u : σ}
    (h : Takes read xs s t) (last : read t = .ok x u) : Takes read (xs ++ [x]) s u := by
  induction xs generalizing s with
  | nil => cases h; exact ⟨u, last, rfl⟩
  | cons y xs ih =>
    obtain ⟨v, first, rest⟩ := h
    exact ⟨v, first, ih rest⟩

namespace Machine

variable {s t u : State} {k : Nat}

/-! ### The reference decoder appends -/

theorem expandCopy_appends (distance length : Nat) (out : List Byte) :
    ∃ piece, expandCopy distance length out = out ++ piece ∧ piece.length = length := by
  induction length generalizing out with
  | zero => exact ⟨[], (List.append_nil out).symm, rfl⟩
  | succ n ih =>
    obtain ⟨piece, e, length⟩ := ih (out ++ [out.getD (out.length - distance) 0#8])
    exact ⟨_ :: piece, by rw [expandCopy, e, List.append_assoc, List.singleton_append], by simp [length]⟩

theorem expandToken_appends (out : List Byte) (i : Instr) :
    ∃ piece, expandToken out i = out ++ piece ∧ piece.length = produced i := by
  cases hn : copyNumbers i with
  | some numbers =>
    obtain ⟨d, l⟩ := numbers
    rw [expandToken_of_copyNumbers hn, produced_of_copyNumbers hn]
    exact expandCopy_appends d l out
  | none =>
    cases i with
    | lit v => exact ⟨[v], rfl, rfl⟩
    | eos lo hi => exact ⟨[], (List.append_nil out).symm, rfl⟩
    | start => exact ⟨[], (List.append_nil out).symm, rfl⟩
    | _ => cases hn

/-- A token list appends its output lengths' sum to any earlier output (41_token_decode.md R149). -/
theorem expand_appends (out : List Byte) (tokens : List Instr) :
    ∃ piece, expand out tokens = out ++ piece ∧ piece.length = (tokens.map produced).sum := by
  induction tokens generalizing out with
  | nil => exact ⟨[], (List.append_nil out).symm, rfl⟩
  | cons i tokens ih =>
    obtain ⟨piece, e, length⟩ := expandToken_appends out i
    obtain ⟨rest, e', length'⟩ := ih (out ++ piece)
    refine ⟨piece ++ rest, ?_, by simp [length, length']⟩
    rw [expand, List.foldl_cons, e, ← expand, e', List.append_assoc]

theorem expand_append_singleton (out : List Byte) (tokens : List Instr) (i : Instr) :
    expand out (tokens ++ [i]) = expandToken (expand out tokens) i := by
  simp [expand]

/-! ### Blocks of a chain and their pieces -/

/-- The bytes of block `j`: the `ZLIST[j]` bytes of SRC at the sum of the lengths before it (43_block_chainer.md R180). -/
def State.blockBytes (s : State) (j : Nat) : List Byte := s.sourceBytes (s.listedBefore j) (s.zslot j).toNat

/-- Block `j` is listed, decodes to its tokens with no byte left, and the tokens append `piece` to the output `before`. -/
def DecodesTo (s : State) (j : Nat) (before piece : List Byte) : Prop :=
  s.zslot j ≠ 0#32 ∧
  ∃ tokens left,
    decodeBlock (s.blockBytes j) = .ok tokens left ∧ left.bytes = [] ∧
    expand before tokens = before ++ piece ∧ piece.length = (tokens.map produced).sum

/-- The pieces of the first blocks of the chain, in list order. -/
def ArePieces (s : State) (pieces : List (List Byte)) : Prop :=
  ∀ j piece, pieces[j]? = some piece → DecodesTo s j (pieces.take j).flatten piece

theorem ArePieces.append {pieces : List (List Byte)} {piece : List Byte} (h : ArePieces s pieces)
    (next : DecodesTo s pieces.length pieces.flatten piece) : ArePieces s (pieces ++ [piece]) := by
  intro j p hp
  rcases lt_trichotomy j pieces.length with earlier | rfl | later
  · rw [List.getElem?_append_left earlier] at hp
    rw [List.take_append_of_le_length earlier.le]
    exact h j p hp
  · rw [List.getElem?_concat_length] at hp
    cases hp
    rwa [List.take_left]
  · rw [List.getElem?_eq_none (by rw [List.length_append, List.length_singleton]; omega)] at hp
    cases hp

/-- The tokens taken so far in the decode call of block `j`, from its opened byte stream to the machine's, and what they
have made of the output `before`. Each token has taken a byte, and the marker word two. -/
structure TokensSoFar (s : State) (j : Nat) (before : List Byte) (body : List Instr) (u : State) : Prop where
  plain : ∀ i ∈ body, ∀ lo hi, i ≠ .eos lo hi
  taken : ∃ start, openBlockStream (s.blockBytes j) = .ok () start ∧ Takes decodeNext body start u.stream
  output : u.outBytes = expand before body
  counted : u.blkSrcBase.toNat + body.length + 2 ≤ u.sp.toNat

/-- How far a chain over the inputs of `s` has come in the state `u`, unless it has faulted. -/
inductive ChainProgress (s : State) : State → Prop
  /-- Between two blocks. -/
  | between {u : State} (pieces : List (List Byte)) (busy : u.engine = .busy) (phase : u.phase = .blockBegin)
      (decoded : ArePieces s pieces) (count : pieces.length = u.zidx.toNat) (output : u.outBytes = pieces.flatten) :
      ChainProgress s u
  /-- Inside a decode call. -/
  | inside {u : State} (pieces : List (List Byte)) (body : List Instr) (busy : u.engine = .busy)
      (phase : u.phase = .token) (decoded : ArePieces s pieces) (count : pieces.length = u.zidx.toNat)
      (tokens : TokensSoFar s pieces.length pieces.flatten body u) : ChainProgress s u
  /-- At the list's end. -/
  | ended {u : State} (pieces : List (List Byte)) (done : u.engine = .done)
      (decoded : ArePieces s pieces) (count : pieces.length = u.zidx.toNat) (output : u.outBytes = pieces.flatten)
      (source : u.sp.toNat = s.listedBefore pieces.length)
      (last : pieces.length = 33 ∨ s.zslot pieces.length = 0#32) : ChainProgress s u
  /-- After a fault. -/
  | faulted {u : State} (fault : u.engine = .fault) : ChainProgress s u

theorem zslot_of_inputs (h : u.inputs = s.inputs) (i : Nat) : u.zslot i = s.zslot i := by
  obtain ⟨-, -, zlist, -⟩ := inputs_eq_iff.mp h
  rw [State.zslot, zlist, State.zslot]

theorem listedBefore_of_inputs (h : u.inputs = s.inputs) (k : Nat) : u.listedBefore k = s.listedBefore k := by
  obtain ⟨-, -, zlist, -⟩ := inputs_eq_iff.mp h
  rw [State.listedBefore, zlist, State.listedBefore]

theorem srcAt_of_inputs (h : u.inputs = s.inputs) (i : Nat) : u.srcAt i = s.srcAt i := by
  obtain ⟨src, -, -, -, resets, -⟩ := inputs_eq_iff.mp h
  rw [State.srcAt, src, resets, State.srcAt]

/-- The window of a block just opened holds the block's bytes (43_block_chainer.md R174). -/
theorem openBlock_bytesLeft (h : u.inputs = s.inputs)
    (fits : u.blkSrcLimit.toNat + (u.zslot u.zidx.toNat).toNat ≤ u.srcLen.toNat)
    (start : u.blkSrcLimit.toNat = u.listedBefore u.zidx.toNat) :
    u.openBlock.bytesLeft = s.blockBytes u.zidx.toNat := by
  have length : u.openBlock.blkSrcLimit.toNat - u.openBlock.sp.toNat = (s.zslot u.zidx.toNat).toNat := by
    rw [openBlock_blkSrcLimit_toNat fits, openBlock_sp, zslot_of_inputs h, Nat.add_sub_cancel_left]
  rw [State.bytesLeft, length, openBlock_sp, start, listedBefore_of_inputs h, State.blockBytes, State.sourceBytes]
  exact List.map_congr_left fun i _ => srcAt_of_inputs (u := u.openBlock) h _

/-- BlockBegin opens the byte stream of the block: its marker word 0 is loaded (40_bitstream_reader.md R122). -/
theorem openBlockStream_bytesLeft (room : u.sp.toNat + 2 ≤ u.blkSrcLimit.toNat) :
    openBlockStream u.bytesLeft = .ok () u.loadMarker.stream := by
  rw [bytesLeft_of_marker room]
  rfl

/-- A decode call begins with no token taken. -/
theorem TokensSoFar.opened (inv : Invariant u) (hb : u.engine = .busy) (hp : u.phase = .blockBegin)
    (h : u.inputs = s.inputs) (fits : u.blkSrcLimit.toNat + (u.zslot u.zidx.toNat).toNat ≤ u.srcLen.toNat)
    (room : u.openBlock.sp.toNat + 2 ≤ u.openBlock.blkSrcLimit.toNat) :
    TokensSoFar s u.zidx.toNat u.outBytes [] u.openBlock.loadMarker.enterTokens := by
  obtain ⟨-, -, start⟩ := inv.between_blocks hb hp
  refine ⟨by simp, ⟨u.openBlock.loadMarker.stream, ?_, rfl⟩, rfl, ?_⟩
  · rw [← openBlock_bytesLeft h fits start]
    exact openBlockStream_bytesLeft room
  · exact (loadMarker_sp_toNat room).ge

/-- A token other than `EOS` goes on with the decode call. -/
theorem TokensSoFar.append {j : Nat} {before : List Byte} {body : List Instr} {i : Instr} {m : State}
    (h : TokensSoFar s j before body u) (inside : InDecodeCall u)
    (fetched : fetchToken u = .ok i m) (moved : CursorOnly u m) (completed : Completes i m t)
    (other : ∀ lo hi, i ≠ .eos lo hi) : TokensSoFar s j before (body ++ [i]) t := by
  obtain ⟨start, opened, taken⟩ := h.taken
  obtain ⟨-, -, sp, -, stream, -, -⟩ := completed.cursor_eq
  have counted := h.counted
  obtain ⟨-, -, forward⟩ := fetchToken_counts inside.count_range.1 fetched
  have base : t.blkSrcBase = u.blkSrcBase := by rw [completed.frame other, moved]
  refine ⟨?_, ⟨start, opened, takes_append_singleton taken ?_⟩, ?_, ?_⟩
  · intro i' hi'
    rcases List.mem_append.mp hi' with old | new
    · exact h.plain i' old
    · rw [List.mem_singleton.mp new]
      exact other
  · rw [stream]
    exact decodeNext_of_fetched fetched
  · rw [completed.outBytes_eq (moved.params_eq ▸ inside.inv.params_legal), moved.outBytes_eq, h.output,
      expand_append_singleton]
  · rw [base, sp, List.length_append, List.length_singleton]
    omega

/-- `EOS` ends the decode call with all the block's bytes decoded (43_block_chainer.md R176, R178). -/
theorem TokensSoFar.decodesTo {j : Nat} {before : List Byte} {body : List Instr} {lo hi : Byte} {m : State}
    (h : TokensSoFar s j before body u) (inside : InDecodeCall u) (same : u.inputs = s.inputs)
    (slot : j = u.zidx.toNat)
    (fetched : fetchToken u = .ok (.eos lo hi) m) (moved : CursorOnly u m) (completed : Completes (.eos lo hi) m t)
    (inv : Invariant t) (hb : t.engine = .busy) :
    ∃ piece, DecodesTo s j before piece ∧ t.outBytes = before ++ piece := by
  obtain ⟨start, opened, taken⟩ := h.taken
  obtain ⟨-, -, -, -, stream, -, -⟩ := completed.cursor_eq
  obtain ⟨piece, appends, length⟩ := expand_appends before (body ++ [.eos lo hi])
  obtain ⟨-, -, -, -, listed, limit, -⟩ := inside.inv.in_block inside.busy inside.phase
  have counted := h.counted
  have window := inside.inv.cursor_window
  have enough : body.length < (s.blockBytes j).length := by
    rw [State.blockBytes, State.sourceBytes, List.length_map, List.length_range, slot, ← zslot_of_inputs same]
    omega
  have all : Takes decodeNext (body ++ [.eos lo hi]) start t.stream := by
    rw [stream]
    exact takes_append_singleton taken (decodeNext_of_fetched fetched)
  obtain ⟨ended, -, -⟩ := inv.between_blocks hb (by rw [completed.eq_closeBlock, closeBlock_phase])
  refine ⟨piece, ⟨by rwa [slot, ← zslot_of_inputs same], body ++ [.eos lo hi], t.stream, ?_, ?_, appends, length⟩, ?_⟩
  · rw [decodeBlock, opened, andThen_ok]
    exact decodeTokens_of_takes h.plain enough all
  · exact bytesLeft_of_end (by rw [ended])
  · rw [← appends, expand_append_singleton, ← h.output, ← moved.outBytes_eq]
    exact completed.outBytes_eq (moved.params_eq ▸ inside.inv.params_legal)

/-- BlockBegin ends the chain or opens its next block. -/
theorem ChainProgress.blockBegin {pieces : List (List Byte)} (inv : Invariant u) (same : u.inputs = s.inputs)
    (hb : u.engine = .busy) (hp : u.phase = .blockBegin) (decoded : ArePieces s pieces)
    (count : pieces.length = u.zidx.toNat) (output : u.outBytes = pieces.flatten) (he : engineStep u = .next t) :
    ChainProgress s t := by
  rcases engineStep_engine he with busy | ⟨-, -, -, done⟩ | ⟨-, fault, -⟩
  · have hb' := busy.trans hb
    rcases engineStep_stays_busy hb he hb' with ⟨-, -, fits, room, rfl⟩ | ⟨token, -⟩
    · refine .inside pieces [] hb' rfl decoded count ?_
      rw [count, ← output]
      exact .opened inv hb hp same fits room
    · simp [hp] at token
  · obtain ⟨-, exhausted, rfl⟩ := engineStep_done hb he done
    obtain ⟨sp, -, sum⟩ := inv.between_blocks hb hp
    refine .ended pieces rfl decoded count output ?_ ?_
    · rw [count, ← listedBefore_of_inputs same, ← sum, ← sp]
      rfl
    · rw [count, ← zslot_of_inputs same]
      exact (listExhausted_iff.mp exhausted).imp_left (congrArg BitVec.toNat)
  · exact .faulted fault

/-- A token goes on with its block or, as `EOS`, completes the block's piece. -/
theorem ChainProgress.token {pieces : List (List Byte)} {body : List Instr} (call : InDecodeCall u)
    (same : u.inputs = s.inputs) (decoded : ArePieces s pieces) (count : pieces.length = u.zidx.toNat)
    (tokens : TokensSoFar s pieces.length pieces.flatten body u) (he : engineStep u = .next t) :
    ChainProgress s t := by
  have ⟨inv, hb, hp⟩ := call
  rcases engineStep_engine he with busy | ⟨-, outside, -⟩ | ⟨-, fault, -⟩
  · have hb' := busy.trans hb
    rw [engineStep_of_token hb hp] at he
    obtain ⟨i, m, fetched, moved, completed⟩ := tokenStep_completed he hb'
    rw [← engineStep_of_token hb hp] at he
    by_cases eos : ∃ lo hi, i = .eos lo hi
    · obtain ⟨lo, hi, rfl⟩ := eos
      obtain ⟨piece, next, output⟩ :=
        tokens.decodesTo call same count fetched moved completed (inv.engineStep he) hb'
      have closed : t.phase = .blockBegin := by rw [completed.eq_closeBlock, closeBlock_phase]
      have slot : t.zidx.toNat = u.zidx.toNat + 1 := by
        obtain ⟨-, ⟨-, slot⟩ | ⟨token, -⟩⟩ := completed_token_progress inv hb hp fetched moved completed
        · exact slot
        · simp [closed] at token
      refine .between (pieces ++ [piece]) hb' closed (decoded.append next) ?_ ?_
      · rw [List.length_append, List.length_singleton, count, slot]
      · rw [output, List.flatten_append, List.flatten_singleton]
    · have other : ∀ lo hi, i ≠ .eos lo hi := fun lo hi e => eos ⟨lo, hi, e⟩
      refine .inside pieces (body ++ [i]) hb' ?_ decoded ?_ (tokens.append call fetched moved completed other)
      · rw [completed.phase_eq other, moved.phase_eq, hp]
      · rw [count, completed.frame other, moved]
  · simp [hp] at outside
  · exact .faulted fault

/-- Every step of the engine goes on with the chain. -/
theorem ChainProgress.engineStep (h : ChainProgress s u) (inv : Invariant u) (same : u.inputs = s.inputs)
    (he : engineStep u = .next t) : ChainProgress s t := by
  have stays (idle : u.engine ≠ .busy) : t = u := by
    rw [Machine.engineStep, if_neg idle] at he
    cases he
    rfl
  cases h with
  | between pieces busy phase decoded count output =>
    exact .blockBegin inv same busy phase decoded count output he
  | inside pieces body busy phase decoded count tokens =>
    exact .token ⟨inv, busy, phase⟩ same decoded count tokens he
  | ended pieces done decoded count output source last =>
    rw [stays (by simp [done])]
    exact .ended pieces done decoded count output source last
  | faulted fault =>
    rw [stays (by simp [fault])]
    exact .faulted fault

/-- A chain makes progress from START on (43_block_chainer.md R171). -/
theorem ChainProgress.start (s : State) : ChainProgress s s.beginChain :=
  .between [] rfl rfl (by simp [ArePieces]) rfl (by simp [State.outBytes])

end Machine
end Sys2Proof

open Sys2Proof Sys2Proof.Machine

/-- Settles O44: the chain's progress, kept by every step, at a state in `DONE`. -/
theorem chainOutputIsTheConcatenation : Obligations.ChainOutputIsTheConcatenation := by
  intro s t k inv quiet he h done
  have start : Invariant s.beginChain := inv.beginChain (by rcases he with e | e <;> simp [e])
  have keeps : ∀ {u v : State}, Invariant u ∧ u.inputs = s.inputs ∧ ChainProgress s u → engineStep u = .next v →
      Invariant v ∧ v.inputs = s.inputs ∧ ChainProgress s v := by
    rintro u v ⟨inv, same, progress⟩ step
    exact ⟨inv.engineStep step, (engineStep_inputs step).trans same, progress.engineStep inv same step⟩
  obtain ⟨⟨-, -, progress⟩, -⟩ := run_keeps (s := s.beginChain) keeps quiet ⟨start, rfl, .start s⟩ h
  cases progress with
  | between _ busy => simp [busy] at done
  | inside _ _ busy => simp [busy] at done
  | ended pieces _ decoded count output source last => exact ⟨pieces, count, output, source, last, decoded⟩
  | faulted fault => simp [fault] at done
end

/-! ## Every chain ends (60_exceptions.md R225), and the completion line (R223) -/

section
namespace Sys2Proof.Machine

variable {s t : State} {k : Nat}

/-- The engine never enters `IDLE`: reset alone leads there (10_state.md R46). -/
theorem run_not_idle (quiet : s.hostMoves = []) (hs : s.engine ≠ .idle) (h : run k s = .next t) :
    t.engine ≠ .idle := by
  have keeps : ∀ {u v : State}, u.engine ≠ .idle → engineStep u = .next v → v.engine ≠ .idle := by
    intro u v hu hv
    rcases engineStep_engine hv with same | ⟨_, _, _, done⟩ | ⟨_, fault, _⟩
    · rwa [same]
    · simp [done]
    · simp [fault]
  exact (run_keeps keeps quiet hs h).1

@[simp] theorem irq_iff : s.irq = true ↔ s.engine = .done ∨ s.engine = .fault := by
  simp [State.irq]

/-- While a chain runs and after reset the line is low. -/
theorem irq_eq_false (h : s.engine = .busy ∨ s.engine = .idle) : s.irq = false := by
  rcases h with h | h <;> simp [State.irq, h]

end Sys2Proof.Machine

open Sys2Proof Sys2Proof.Machine

/-- Settles O33: START leads to BlockBegin, from where the chain runs to its end within the bound of RunChain; the end is
not `BUSY`, and no run of the engine enters `IDLE`. -/
theorem everyChainEnds : Obligations.EveryChainEnds := by
  intro s inv quiet he
  have start : Invariant s.beginChain := inv.beginChain (by rcases he with e | e <;> simp [e])
  obtain ⟨k, t, bound, -, ran, notBusy⟩ := runChainAgreesWithTheSteps s.beginChain start quiet rfl rfl
  have notIdle : t.engine ≠ .idle := run_not_idle (s := s.beginChain) quiet (by simp) ran
  refine ⟨k, t, bound, ran, ?_⟩
  cases e : t.engine with
  | idle => exact absurd e notIdle
  | busy => exact absurd e notBusy
  | done => exact .inl rfl
  | fault => exact .inr rfl

/-- Settles O42, from STATE after START and after reset. -/
theorem completionLine : Obligations.CompletionLine := by
  refine ⟨fun _ => irq_iff, fun s done => ?_, fun s rest h => ?_⟩
  · rcases exec_start_cases s with ⟨_, e⟩ | ⟨running, _⟩
    · exact ⟨s.beginChain, e, irq_eq_false (.inl rfl)⟩
    · simp [done] at running
  · exact ⟨(s.dropMove rest).resetInput, step_of_move h, irq_eq_false (.inr rfl)⟩
end

/-! ## `FAULT` until reset (60_exceptions.md R218) -/

section
namespace Sys2Proof.Machine

variable {s t : State}

/-- Outside `BUSY` the engine does not step (43_block_chainer.md R172; log 19). -/
theorem engineStep_of_not_busy (idle : s.engine ≠ .busy) : engineStep s = .next s := if_neg idle

/-- In `FAULT` a move of the host other than reset changes at most what the host holds (60_exceptions.md R218,
70_reset_and_hazards.md R246; log 13). -/
theorem hostStep_of_fault (he : s.engine = .fault) {m : HostMove} (h : hostStep m s = .next t) :
    (m = .reset ∧ t = s.resetInput) ∨ t = { s with hostData := t.hostData, freeReads := t.freeReads } := by
  cases m with
  | writeReg n v =>
    refine .inr ?_
    by_cases hn : n = 0#6
    · subst hn
      rw [hostStep_writeCmd] at h
      rcases writeCommand_cases v s with ⟨_, ready, _⟩ | e
      · simp [he] at ready
      · rw [e] at h; cases h; rfl
    · obtain ⟨-, ignored⟩ := writeRegister_frame n v s
      rw [hostStep_writeReg hn, ignored (.inr he)] at h
      cases h; rfl
  | readReg n =>
    refine .inr ?_
    rw [hostStep_readReg] at h
    rcases readRegister_cases n s with ⟨v, _, e⟩ | ⟨_, e⟩ <;> rw [e] at h <;> cases h <;> rfl
  | writeSrc i v =>
    refine .inr ?_
    rw [hostStep_writeSrc] at h
    rcases writeSource_cases i v s with ⟨ready, _⟩ | ⟨busy, _⟩ | ⟨_, e⟩
    · simp [he] at ready
    · simp [he] at busy
    · rw [e] at h; cases h; rfl
  | readOut i =>
    refine .inr ?_
    rw [hostStep_readOut] at h
    rcases readOutput_cases i s with ⟨_, e⟩ | ⟨_, ⟨v, e⟩ | ⟨v, e⟩⟩ <;> rw [e] at h <;> cases h <;> rfl
  | reset => cases h; exact .inl ⟨rfl, rfl⟩
  | wait =>
    rw [hostStep_wait, engineStep_of_not_busy (by simp [he])] at h
    cases h; exact .inr rfl

end Sys2Proof.Machine

open Sys2Proof Sys2Proof.Machine

/-- Settles O27: the engine does not step in `FAULT`, and of the host's moves reset alone has an effect. -/
theorem faultIsStickyUntilReset : Obligations.FaultIsStickyUntilReset := by
  intro s t he h
  rcases step_kinds s with ⟨_, e⟩ | ⟨m, rest, hm, e⟩ <;> rw [e] at h
  · rw [engineStep_of_not_busy (by simp [he])] at h
    cases h; exact .inr rfl
  · rcases hostStep_of_fault (s := s.dropMove rest) he h with ⟨rfl, rfl⟩ | frame
    · exact .inl ⟨⟨rest, hm⟩, rfl, rfl, rfl⟩
    · exact .inr (by rw [frame]; rfl)
end

/-! ## Fault entry of the engine: what it keeps, and which faults take no output (60_exceptions.md R211, R213, R217, R219) -/

section
namespace Sys2Proof.Machine

variable {s t u : State} {i : Instr} {d l : Nat}

/-! ### A copy before the start of the output -/

/-- The pattern of an offset is the two's complement of the distance (41_token_decode.md R146). -/
theorem offsetOf_eq_ofInt (pos : 1 ≤ d) (le : d ≤ 4096) : offsetOf d = BitVec.ofInt 32 (-(d : Int)) := by
  rw [← offsetOf_toInt pos le, BitVec.ofInt_toInt]

/-- A copy token whose distance exceeds `WC` raises InvalidBackReference before any byte is copied (42_copy_engine.md
R161). -/
theorem exec_copy_of_short (wf : i.wellFormed = true) (numbers : copyNumbers i = some (d, l)) (short : s.wc.toNat < d) :
    exec i s = .next (s.enterFault ⟨.invalidBackReference, offsetOf d⟩) := by
  obtain ⟨pos, le, -, most⟩ := copyNumbers_range wf numbers
  rw [exec_of_copyNumbers numbers]
  rcases copy_offsetOf_cases pos le most s with ⟨_, e⟩ | ⟨reach, _⟩
  · rw [e, settle]
  · omega

/-! ### Missing material -/

/-- From `s` to `u` the cursor alone has moved, with `SP` forward and at most to the block's end. -/
structure Advanced (s u : State) : Prop where
  moved : CursorOnly s u
  forward : s.sp.toNat ≤ u.sp.toNat
  inside : u.sp.toNat ≤ u.blkSrcLimit.toNat

/-- The state `u` while a token's material is taken from `s` on: the window still holds a bit. -/
structure Fetching (s u : State) : Prop extends Advanced s u where
  more : u.count ≠ 0#5

/-- Where the fetch from `s` stops for missing material: at a reload that found `COUNT` at 0, or at a raw byte at the
block's end (60_exceptions.md R213). -/
structure Truncated (s u : State) : Prop extends Advanced s u where
  site : (u.count = 0#5 ∧ u.blkSrcLimit.toNat < u.sp.toNat + 2) ∨ (u.count ≠ 0#5 ∧ u.sp = u.blkSrcLimit)

namespace Fetching

theorem nextBit (h : Fetching s u) :
    Yields (Fetching s) (fun r t => r = ⟨.sourceTruncated, 0#32⟩ ∧ Truncated s t) (nextBit u) := by
  obtain ⟨⟨moved, forward, inside⟩, more⟩ := h
  rcases nextBit_cases u with ⟨left, e⟩ | ⟨_, room, e⟩ | ⟨empty, short, e⟩ <;> rw [e]
  · exact yields_ok.mpr ⟨⟨moved.update _ _ _ _, forward, inside⟩, left⟩
  · have sp : u.takeBit.loadMarker.sp.toNat = u.sp.toNat + 2 := loadMarker_sp_toNat (s := u.takeBit) room
    exact yields_ok.mpr ⟨⟨moved.update _ _ _ _, by omega, sp ▸ room⟩, by simp⟩
  · exact yields_stop.mpr ⟨rfl, ⟨moved.update _ _ _ _, forward, inside⟩, .inl ⟨empty, short⟩⟩

theorem srcByte (h : Fetching s u) :
    Yields (Fetching s) (fun r t => r = ⟨.sourceTruncated, 0#32⟩ ∧ Truncated s t) (srcByte u) := by
  obtain ⟨⟨moved, forward, inside⟩, more⟩ := h
  rcases srcByte_cases u with ⟨room, e⟩ | ⟨short, e⟩ <;> rw [e]
  · have sp := advanceSource_sp_toNat room
    exact yields_ok.mpr ⟨⟨moved.update _ _ _ _, by omega, sp ▸ room⟩, more⟩
  · have atEnd : u.sp = u.blkSrcLimit := BitVec.eq_of_toNat_eq (inside.antisymm short)
    exact yields_stop.mpr ⟨rfl, ⟨moved, forward, inside⟩, .inr ⟨more, atEnd⟩⟩

end Fetching

/-- A fetch that stops has found the material missing and changed the cursor alone (60_exceptions.md R213). -/
theorem fetchToken_truncated (more : s.count ≠ 0#5) (inside : s.sp.toNat ≤ s.blkSrcLimit.toNat) :
    Yields (Fetching s) (fun r t => r = ⟨.sourceTruncated, 0#32⟩ ∧ Truncated s t) (fetchToken s) :=
  readToken_invariant _ _ (fun _ => Fetching.nextBit) (fun _ => Fetching.srcByte) ⟨⟨rfl, le_rfl, inside⟩, more⟩

/-- An operation that leaves FAULT_CAUSE as `s` has it, and raises other faults than SourceTruncated alone. -/
abbrev NotTruncating (s : State) (m : Micro Unit) : Prop :=
  Yields (fun t => t.faultCause = s.faultCause) (fun r _ => r.cause ≠ .sourceTruncated) m

theorem emit_notTruncating (v : Byte) (s : State) : NotTruncating s (emit v s) := by
  rcases emit_cases v s with ⟨_, e⟩ | ⟨_, _, e⟩ | ⟨_, _, e⟩ <;> rw [NotTruncating, e] <;> simp

theorem blockEnd_notTruncating (s : State) : NotTruncating s (blockEnd s) := by
  rcases blockEnd_cases s with ⟨_, e⟩ | ⟨_, e⟩ <;> rw [NotTruncating, e] <;> simp

theorem copyBytes_notTruncating (length src : Nat) (s : State) : NotTruncating s (copyBytes length src s) := by
  refine ⟨fun _ t e => ?_, fun r t e => ?_⟩
  · have frame := copyBytes_frame length src s
    rw [e] at frame
    rw [show t = _ from frame]
  · simp [copyBytes_stop e]

theorem copy_notTruncating (offset length : Word) (s : State) : NotTruncating s (copy offset length s) := by
  rcases copy_cases offset length s with ⟨_, e⟩ | ⟨_, e⟩ <;> rw [e]
  · exact yields_stop.mpr (by simp)
  · exact copyBytes_notTruncating _ _ s

theorem NotTruncating.settle {m : Micro Unit} (hm : NotTruncating s m) (h : settle m = .next t)
    (truncated : t.faultCause = .sourceTruncated) : s.faultCause = .sourceTruncated := by
  rcases hm.settle_cases h with same | ⟨r, u, other, rfl⟩
  · exact same.symm.trans truncated
  · exact absurd truncated other

/-- No instruction raises SourceTruncated: all of a token's material is taken before its rule runs (60_exceptions.md
R213). -/
theorem exec_not_truncated (h : exec i s = .next t) (truncated : t.faultCause = .sourceTruncated) :
    s.faultCause = .sourceTruncated := by
  cases i with
  | lit v => exact (emit_notTruncating v s).settle h truncated
  | scopy a b v => exact (copy_notTruncating _ _ s).settle h truncated
  | lcopy lo hi => exact (copy_notTruncating _ _ s).settle h truncated
  | xcopy lo hi n => exact (copy_notTruncating _ _ s).settle h truncated
  | eos lo hi => exact (blockEnd_notTruncating s).settle h truncated
  | start => rcases exec_start_cases s with ⟨_, e⟩ | ⟨_, e⟩ <;> rw [e] at h <;> cases h <;> exact truncated

/-! ### The place of a fault -/

/-- A token that raises does so in its own phase and slot: only an `EOS` that completes leaves them (43_block_chainer.md
R176). -/
theorem tokenRule_place (p : Phase) (z : BitVec 6) :
    TokenRule (fun s => s.engine = .busy ∧ s.phase = p ∧ s.zidx = z) (fun s => s.engine = .busy)
      fun _ s => s.phase = p ∧ s.zidx = z where
  busy h := h.1
  takes_bit {s} h := by
    rcases nextBit_cases s with ⟨_, e⟩ | ⟨_, _, e⟩ | ⟨_, _, e⟩ <;> rw [e] <;> simp [h]
  takes_byte {s} h := by
    rcases srcByte_cases s with ⟨_, e⟩ | ⟨_, e⟩ <;> rw [e] <;> simp [h]
  emits {s} h v := by
    rcases emit_cases v s with ⟨_, e⟩ | ⟨_, _, e⟩ | ⟨_, _, e⟩ <;> rw [e] <;> simp [h]
  refuses_copy h _ := h.2
  closes {s} h := by
    rcases blockEnd_cases s with ⟨_, e⟩ | ⟨_, e⟩ <;> rw [e] <;> simp [h]
  ends h := h.1

/-- BlockBegin raises SourceTruncated alone, with PHASE, ZIDX and the output as they were (60_exceptions.md R217). -/
theorem blockBegin_raise_frame (hb : s.engine = .busy) :
    Yields (fun t => t.engine ≠ .fault)
      (fun r t => r.cause = .sourceTruncated ∧ t.phase = s.phase ∧ t.zidx = s.zidx ∧ t.wc = s.wc ∧ t.out = s.out)
      (blockBegin s) := by
  rcases blockBegin_cases s with ⟨_, e⟩ | ⟨_, _, e⟩ | ⟨_, _, _, e⟩ | ⟨_, _, _, e⟩ <;> rw [e] <;> simp [hb]

/-- A step of the engine that faults leaves PHASE and ZIDX; in BlockBegin it also leaves the output, and the cause is
SourceTruncated (60_exceptions.md R217, R219). -/
theorem engineStep_fault_frame (hb : s.engine = .busy) (h : engineStep s = .next t) (fault : t.engine = .fault) :
    t.phase = s.phase ∧ t.zidx = s.zidx ∧
      (s.phase = .blockBegin → t.wc = s.wc ∧ t.out = s.out ∧ t.faultCause = .sourceTruncated) := by
  rcases engineStep_cases s with ⟨idle, _⟩ | ⟨_, _, e⟩ | ⟨_, hp, e⟩
  · exact absurd hb idle
  · rcases (blockBegin_raise_frame hb).settle_cases (e ▸ h) with running | ⟨r, u, ⟨cause, phase, slot, wc, out⟩, rfl⟩
    · exact absurd fault running
    · exact ⟨phase, slot, fun _ => ⟨wc, out, cause⟩⟩
  · rcases (tokenRule_place s.phase s.zidx).tokenStep ⟨hb, rfl, rfl⟩ (e ▸ h) with busy | ⟨r, u, ⟨phase, slot⟩, rfl⟩
    · simp [busy] at fault
    · exact ⟨phase, slot, fun begin => by simp [hp] at begin⟩

end Sys2Proof.Machine

open Sys2Proof Sys2Proof.Machine

/-- Settles O14: the copy is refused where the token's material has been taken, which counts the token's bits and bytes
and leaves `WC` and OUT. -/
theorem copyBeforeTheStartFaults : Obligations.CopyBeforeTheStartFaults := by
  intro i d l wf numbers
  obtain ⟨pos, le, -, -⟩ := copyNumbers_range wf numbers
  refine ⟨fun s short => ?_, fun s m hm hb hp count _ fetched short => ?_⟩
  · rw [exec_copy_of_short wf numbers short, offsetOf_eq_ofInt pos le]
  · have moved := (fetchToken_frame s).1 i m fetched
    obtain ⟨-, sp, -⟩ := fetchToken_counts count fetched
    have ended : step s = .next (m.enterFault ⟨.invalidBackReference, offsetOf d⟩) := by
      rw [step_of_token hm hb hp, tokenStep_of_fetched fetched,
        exec_copy_of_short wf numbers (by rwa [moved.wc_eq])]
    exact ⟨_, ended, rfl, rfl, offsetOf_toInt pos le, moved.wc_eq, moved.out_eq, sp⟩

/-- Settles O22: a token's rule raises other faults, so the fetch has stopped, at one of its two sites. -/
theorem truncatedTokenKeepsTheOutput : Obligations.TruncatedTokenKeepsTheOutput := by
  intro s t hm hb hp count _ inside h truncated none
  have more : s.count ≠ 0#5 := fun e => by simp [e] at count
  rw [step_of_token hm hb hp] at h
  rcases tokenStep_cases s with ⟨i, m, fetched, e⟩ | ⟨r, u, stopped, e⟩ <;> rw [e] at h
  · have moved := (fetchToken_frame s).1 i m fetched
    have cause : m.faultCause = .none := by rw [moved, none]
    simp [exec_not_truncated h truncated] at cause
  · obtain ⟨rfl, ⟨moved, forward, within⟩, site⟩ := (fetchToken_truncated more inside).2 r u stopped
    cases h
    refine ⟨?_, forward, within, site⟩
    rw [moved]
    rfl

/-- Settles O28: the inputs and the output by the frames of every step of the engine, PHASE and ZIDX by the place of the
fault. -/
theorem faultEntryKeepsTheRest : Obligations.FaultEntryKeepsTheRest := by
  intro s t legal hb h fault
  obtain ⟨src, srcLen, zlist, -⟩ := inputs_eq_iff.mp (engineStep_inputs h)
  obtain ⟨phase, slot, begin⟩ := engineStep_fault_frame hb h fault
  obtain ⟨-, same⟩ := engineStep_outputGrows legal h
  have cause : t.faultCause ≠ .none := by
    rcases engineStep_engine h with running | ⟨_, _, _, done⟩ | ⟨_, _, cause⟩
    · simp [running, hb] at fault
    · simp [done] at fault
    · exact cause
  exact ⟨phase, slot, srcLen, zlist, src, cause, begin, fun a ha => same a (.inl ha)⟩
end

/-! ## What the host reads and writes by STATE (70_reset_and_hazards.md R246, R247) -/

section
namespace Sys2Proof.Machine

variable {s : State} {n : BitVec 6} {i : Word} {v : Byte} {rest : List HostMove}

/-! ### Registers while `BUSY` -/

/-- In `BUSY` a read is unspecified exactly at the hidden numbers (70_reset_and_hazards.md R246, U6). -/
theorem unspecifiedRead_of_busy (busy : s.engine = .busy) :
    s.unspecifiedRead n = if hiddenWhileBusy n then some (Config.freeRead s.freeReads) else none :=
  if_pos busy

/-- The hidden numbers (log 15). -/
theorem hiddenWhileBusy_iff :
    hiddenWhileBusy n = true ↔ (2 ≤ n.toNat ∧ n.toNat ≤ 13) ∨ (16 ≤ n.toNat ∧ n.toNat ≤ 48) :=
  decide_eq_true_iff

/-- `CMD` and the unassigned numbers read 0 (10_state.md R30, R44). -/
theorem regView_eq_zero (hn : n.toNat = 0 ∨ n.toNat = 14 ∨ n.toNat = 15 ∨ 49 ≤ n.toNat) : s.regView n = 0#32 := by
  rcases hn with cmd | h14 | h15 | high
  · exact regView_low s n cmd (by decide)
  · exact regView_low s n h14 (by decide)
  · exact regView_low s n h15 (by decide)
  · exact regView_high s n high

/-- A read whose value is unspecified returns the free value and counts it (log 7). -/
theorem step_readReg_free {w : Word} (h : s.hostMoves = .readReg n :: rest) (free : s.unspecifiedRead n = some w) :
    step s = .next { s.dropMove rest with hostData := w, freeReads := s.freeReads + 1 } := by
  have hd : (s.dropMove rest).unspecifiedRead n = some w := free
  rw [step_of_move h, hostStep_readReg, readRegister, hd]
  rfl

/-! ### SRC -/

/-- In `IDLE` and `DONE` a write of SRC stores (10_state.md R48). -/
theorem step_writeSrc_of_accepts (h : s.hostMoves = .writeSrc i v :: rest) (he : s.engine = .idle ∨ s.engine = .done) :
    step s = .next ((s.dropMove rest).storeSrc i v) := by
  rw [step_of_move h, hostStep_writeSrc, writeSource, dropMove_engine]
  rcases he with he | he <;> rw [he]

/-- In `FAULT` a write of SRC is ignored (log 13). -/
theorem step_writeSrc_of_fault (h : s.hostMoves = .writeSrc i v :: rest) (he : s.engine = .fault) :
    step s = .next (s.dropMove rest) := by
  rw [step_of_move h, hostStep_writeSrc, writeSource, dropMove_engine, he]

/-- An index that holds a byte reads as that byte (20_memory.md R71). -/
theorem srcAt_of_held {a : Nat} (held : Memory.read? s.src a = some v) : s.srcAt a = v := by
  rw [State.srcAt, held, Option.getD_some]

/-! ### OUT -/

/-- The same for OUT: stale or not, the byte held is the byte read (70_reset_and_hazards.md R246). -/
theorem outAt_of_held {a : Nat} (held : Memory.read? s.out a = some v) : s.outAt a = v := by
  rw [State.outAt, held, Option.getD_some]

/-- In `BUSY` a read of OUT takes a free value, of which it gives one byte (log 7). -/
theorem step_readOut_of_busy (h : s.hostMoves = .readOut i :: rest) (hi : i.toNat < s.params.outCap)
    (busy : s.engine = .busy) :
    step s = .next { s.dropMove rest with
      hostData := ((Config.freeRead s.freeReads).setWidth 8).setWidth 32, freeReads := s.freeReads + 1 } :=
  (step_of_move h).trans ((if_neg (Nat.not_le.mpr hi)).trans (if_pos busy))

/-- Outside `BUSY` a read of OUT gives the byte at the index, zero-extended (log 9). -/
theorem step_readOut_of_not_busy (h : s.hostMoves = .readOut i :: rest) (hi : i.toNat < s.params.outCap)
    (he : s.engine ≠ .busy) :
    step s = .next { s.dropMove rest with hostData := (s.outAt i.toNat).setWidth 32 } :=
  (step_of_move h).trans ((if_neg (Nat.not_le.mpr hi)).trans (if_neg he))

end Sys2Proof.Machine

open Sys2Proof Sys2Proof.Machine

/-- Settles O39, by whether the number is hidden in `BUSY`. -/
theorem registerReadsWhileBusy : Obligations.RegisterReadsWhileBusy := by
  intro s n rest h busy
  refine ⟨?_, fun unassigned => ?_, fun hidden => ?_⟩
  · rintro rfl
    exact step_readReg h (unspecifiedRead_status s)
  · have shown : ¬ hiddenWhileBusy n = true := by rw [hiddenWhileBusy_iff]; omega
    rw [step_readReg h ((unspecifiedRead_of_busy busy).trans (if_neg shown)), regView_eq_zero unassigned]
  · exact step_readReg_free h ((unspecifiedRead_of_busy busy).trans (if_pos (hiddenWhileBusy_iff.mpr hidden)))

/-- Settles O41: a write of SRC, then a read of OUT, each by STATE. -/
theorem memoryAccessByState : Obligations.MemoryAccessByState := by
  refine ⟨fun s i v rest h => ⟨fun he => ?_, step_writeSrc_of_fault h, step_writeSrc_busy h⟩,
    fun s i rest h hi => ⟨fun busy => ⟨_, step_readOut_of_busy h hi busy⟩,
      fun he => ⟨step_readOut_of_not_busy h hi he, fun _ => outAt_of_held⟩⟩⟩
  exact ⟨_, step_writeSrc_of_accepts h he, rfl, srcAt_of_held (read_write_same s.src i.toNat v),
    fun a ha => read_write_other s.src i.toNat a v ha⟩
end
